-- ==== Sys2Proof/Word.lean ====
section
/-! DEFINITION. Word types and the two fixed sets of names (channels, buffer ids) of the block. -/

namespace Sys2Proof

/-- One byte of a bus transaction (00_scope R9, `u8`). -/
abbrev Byte := BitVec 8

/-- An Output Code or any other `u16` (00_scope R6 `CODE_W`, 30_encoding R108). -/
abbrev Code := BitVec 16

/-- A DDS Register Address (00_scope R6 `ADDR_W`). -/
abbrev Addr := BitVec 13

/-- The four canonical flags of Serial-config (10_state R33). -/
abbrev Flags4 := BitVec 4

/-- The `NUM_CH = 2` Waveform Output Channel instances (00_scope R6, 41_waveform_channel R156). -/
inductive Chan where
  | ch0
  | ch1
deriving DecidableEq, Repr, Inhabited

/-- The sibling channel. -/
def Chan.other : Chan → Chan
  | .ch0 => .ch1
  | .ch1 => .ch0

/-- The `NBUF = 3` buffer ids of a channel; an id is a name, not an address (10_state R21, 20_memory R61). -/
inductive BufId where
  | b0
  | b1
  | b2
deriving DecidableEq, Repr, Inhabited

end Sys2Proof
end

