-- ==== Sys2Proof/Config.lean ====
section
/-! DEFINITION. The parameters of the block (00_scope R6, R7) and the free values: opaque constants
without a body, so that no proof can know what they are. -/

namespace Sys2Proof

/-- A transport's error value `e`, "wrapped unchanged". Its type and its values are not in the source
(60_exceptions R250, 91_not_in_source N11), so it is a token nothing in the model looks into (log 15). -/
structure TransportError where
  token : Nat
deriving DecidableEq, Repr, Inhabited

/-- The OPEN parameters of 00_scope R7. The model takes them as data: every statement holds for each record. -/
structure Params where
  /-- `BATCH`, the batch length (decision D4). -/
  batch : Nat
  /-- `TICK_OFFSET[0]` (decision D6). -/
  tickOffset0 : Nat
  /-- `TICK_OFFSET[1]` (decision D6). -/
  tickOffset1 : Nat
  /-- `TIMER_PERIOD` (decision D6). -/
  timerPeriod : Nat
  addrSerial : Addr
  addrPartId : Addr
  addrPower : Addr
  addrDdsReset : Addr
  addrNdiv : Addr
  addrPll : Addr
  addrPow : Addr
  addrFsc : Addr
  /-- `SERIAL_INIT_FLAGS` (decision D22). -/
  serialInit : Flags4
  /-- `SERIAL_RESET_FLAGS` (decision D22). -/
  serialReset : Flags4
  /-- `POWER_INIT` (decision D24). -/
  powerInit : Byte
deriving DecidableEq, Repr, Inhabited

namespace Config

/-- `ADDR_FTW`, the one address the source fixes (00_scope R6, 20_memory R70). -/
def addrFtw : Addr := 0x01AB#13

/-- `PART_ID`, the expected DDS part ID (00_scope R6). -/
def partId : BitVec 16 := 0x1982#16

end Config

/-- `TICK_OFFSET[ch]`. -/
def Params.tickOffset (p : Params) : Chan → Nat
  | .ch0 => p.tickOffset0
  | .ch1 => p.tickOffset1

/-- The nine register addresses the operations use (10_state R36). -/
def Params.addresses (p : Params) : List Addr :=
  [p.addrSerial, p.addrPartId, p.addrPower, p.addrDdsReset, p.addrNdiv, p.addrPll, Config.addrFtw,
    p.addrPow, p.addrFsc]

/-- The constraints 00_scope R7 puts on the OPEN parameters: `BATCH >= 1`, distinct tick offsets below
the period, pairwise distinct addresses, the soft-reset flag clear in the one nibble and set in the other. -/
abbrev Params.Wf (p : Params) : Prop :=
  1 ≤ p.batch ∧ p.tickOffset0 ≠ p.tickOffset1 ∧ p.tickOffset0 < p.timerPeriod ∧
    p.tickOffset1 < p.timerPeriod ∧ p.addresses.Nodup ∧
    p.serialInit.getLsbD 2 = false ∧ p.serialReset.getLsbD 2 = true

namespace Config

/-- Configuration X1 of 95_test_vectors, with a batch length of 2: a record that meets `Params.Wf`. -/
def exampleX1 : Params where
  batch := 2
  tickOffset0 := 0
  tickOffset1 := 4
  timerPeriod := 100
  addrSerial := 0x0000#13
  addrPartId := 0x0003#13
  addrPower := 0x0010#13
  addrDdsReset := 0x0012#13
  addrNdiv := 0x0020#13
  addrPll := 0x0022#13
  addrPow := 0x01AD#13
  addrFsc := 0x040C#13
  serialInit := 0b1001#4
  serialReset := 0b1101#4
  powerInit := 0xC0#8

/-- FREE VALUE: some record of parameters, about which nothing is known (log 2). -/
opaque rawParams : Params

/-- The parameters of the machine at `State.reset`: ANY record that meets 00_scope R7 (`rawParams` where it
does). The other branch only makes the constraints hold whatever the opaque record is; which branch is
taken cannot be proved (log 2). -/
def params : Params := if rawParams.Wf then rawParams else exampleX1

/-- The channel elements that 10_state R38 gives "no value" or calls "unspecified" after a system reset. -/
structure Unbuilt where
  filling : BufId
  armed : BufId
  active : BufId
  idx : Nat
  tc : Bool
  errie : Bool
deriving DecidableEq, Repr, Inhabited

/-- FREE VALUE: what those elements hold before `construct` (10_state R38, 93_implementation_defined U1; log 4). -/
opaque unbuilt : Chan → Unbuilt

/-- FREE VALUE: what the backing storage of a buffer element holds before `construct`, "never zero" by
assumption (93_implementation_defined U1; log 4). -/
opaque storage : Chan → BufId → Nat → Code

/-- FREE VALUE: `DEV_ID`, the identity of whatever chip is on the bus at reset (42_dds_primitives R179; log 5). -/
opaque devId : BitVec 16

/-- FREE VALUE: the timer's counter at reset (10_state R38; log 6). -/
opaque timerCnt : Nat

/-- FREE VALUE: the `n`-th draw of `BUSERR` where the state lists none (42_dds_primitives R173; log 3). -/
opaque busDraw : Nat → Option TransportError

/-- FREE VALUE: byte `i` of the bytes drawn in the `n`-th transaction (42_dds_primitives R179,
93_implementation_defined U5; logs 9 and 14). -/
opaque freeByte : Nat → Nat → Byte

/-- FREE VALUE: a bit drawn in the `n`-th transaction (93_implementation_defined U9; log 10). -/
opaque freeBit : Nat → Bool

end Config

end Sys2Proof
end

