-- ==== Sys2Proof/Syntax.lean ====
section
/-! DEFINITION. The instructions: one constructor per row of spec/opcode_table.json, and the two shapes in
which an instruction is issued to the block (a bus frame in bytes, or a call by name). -/

namespace Sys2Proof

/-- The widths `store_N` takes (44_numeric_conversions R221). -/
inductive StoreWidth where
  | w48
  | w14
  | w10
deriving DecidableEq, Repr, Inhabited

/-- The width as a number of bits. -/
def StoreWidth.bits : StoreWidth → Nat
  | .w48 => 48
  | .w14 => 14
  | .w10 => 10

/-- The instructions. An `i16` operand is its 16-bit two's-complement pattern; a `Q` operand is an exact
rational (00_scope R9). -/
inductive Instr where
  -- the bus forms of the Instruction Word, format IW16 (30_encoding R98)
  | ddsWr1 (addr : Addr) (p0 : Byte)
  | ddsWr2 (addr : Addr) (p0 p1 : Byte)
  | ddsWr3 (addr : Addr) (p0 p1 p2 : Byte)
  | ddsWrs (addr : Addr) (payload : List Byte)
  | ddsRd1 (addr : Addr)
  | ddsRd2 (addr : Addr)
  | ddsRd3 (addr : Addr)
  | ddsRds (addr : Addr) (n : Nat)
  -- Code/Voltage Converter (40_code_voltage)
  | voltage (code : Code)
  | code (signedSample : BitVec 16)
  -- Waveform Output Channel (41_waveform_channel)
  | construct (ch : Chan)
  | start (ch : Chan)
  | acquireBuffer (ch : Chan)
  | fill (ch : Chan) (i : Nat) (v : Code)
  | peek (ch : Chan) (i : Nat)
  | beat (ch : Chan)
  | sampleEvent (ch : Chan)
  -- DDS primitives and header functions (42_dds_primitives, 30_encoding)
  | write (addr : Addr) (payload : List Byte)
  | read (addr : Addr) (n : Nat)
  | mirror (f : Flags4)
  | iwEncode (rw : BitVec 1) (size : BitVec 2) (addr : Addr)
  | iwDecode (h : BitVec 16)
  -- DDS high-level operations (43_dds_operations)
  | init
  | softReset
  | ddsReset
  | setPll (divider pllConfig : Byte)
  | setFtw (tuningWord : Nat)
  | setFrequency (frequency systemClock : Rat)
  | setPow (pow : BitVec 14)
  | setPhase (phase : Rat)
  | setFsc (fsc : BitVec 10)
  | setFullScaleCurrent (dacFs rDacRef : Rat)
  -- numeric conversions (44_numeric_conversions)
  | sysclk (refclk : Rat) (refDoubler : Bool) (ndiv : Nat)
  | frequencyToFtw (frequency sysclk : Rat)
  | phaseToPow (phase : Rat)
  | fsToFsc (dacFs rDacRef : Rat)
  | storeN (w : StoreWidth) (r : Int)
  | ftwToFrequency (ftw : BitVec 48) (sysclk : Rat)
  | powToPhase (pow : BitVec 14)
  | fscToFs (fsc : BitVec 10) (rDacRef : Rat)
  | sysclkToNdiv (sysclk refclk : Rat) (refDoubler : Bool)
deriving DecidableEq, Repr, Inhabited

/-- The two formats of spec/opcode_table.json. -/
inductive Format where
  | iw16
  | op
deriving DecidableEq, Repr, Inhabited

/-- The agents that take an instruction as their step (00_scope R11). -/
inductive Agent where
  | sw
  | tmr
  | dma
deriving DecidableEq, Repr, Inhabited

/-- The format of an instruction's row. -/
def Instr.format : Instr → Format
  | .ddsWr1 _ _ | .ddsWr2 _ _ _ | .ddsWr3 _ _ _ _ | .ddsWrs _ _ => .iw16
  | .ddsRd1 _ | .ddsRd2 _ | .ddsRd3 _ | .ddsRds _ _ => .iw16
  | .voltage _ | .code _ | .construct _ | .start _ | .acquireBuffer _ | .fill _ _ _ | .peek _ _ => .op
  | .beat _ | .sampleEvent _ | .write _ _ | .read _ _ | .mirror _ | .iwEncode _ _ _ | .iwDecode _ => .op
  | .init | .softReset | .ddsReset | .setPll _ _ | .setFtw _ | .setFrequency _ _ | .setPow _ => .op
  | .setPhase _ | .setFsc _ | .setFullScaleCurrent _ _ | .sysclk _ _ _ | .frequencyToFtw _ _ => .op
  | .phaseToPow _ | .fsToFsc _ _ | .storeN _ _ | .ftwToFrequency _ _ | .powToPhase _ => .op
  | .fscToFs _ _ | .sysclkToNdiv _ _ _ => .op

/-- The agent whose step an instruction is: `Beat` and `SampleEvent` "are hardware steps, not callable
operations" (30_encoding R109); everything else is the caller's. -/
def Instr.agent : Instr → Agent
  | .beat _ => .dma
  | .sampleEvent _ => .tmr
  | .ddsWr1 _ _ | .ddsWr2 _ _ _ | .ddsWr3 _ _ _ _ | .ddsWrs _ _ => .sw
  | .ddsRd1 _ | .ddsRd2 _ | .ddsRd3 _ | .ddsRds _ _ => .sw
  | .voltage _ | .code _ | .construct _ | .start _ | .acquireBuffer _ | .fill _ _ _ | .peek _ _ => .sw
  | .write _ _ | .read _ _ | .mirror _ | .iwEncode _ _ _ | .iwDecode _ => .sw
  | .init | .softReset | .ddsReset | .setPll _ _ | .setFtw _ | .setFrequency _ _ | .setPow _ => .sw
  | .setPhase _ | .setFsc _ | .setFullScaleCurrent _ _ | .sysclk _ _ _ | .frequencyToFtw _ _ => .sw
  | .phaseToPow _ | .fsToFsc _ _ | .storeN _ _ | .ftwToFrequency _ _ | .powToPhase _ => .sw
  | .fscToFs _ _ | .sysclkToNdiv _ _ _ => .sw

/-- The second part of a bus transaction: bytes the block writes, or a number of bytes it reads
(00_scope R10, 30_encoding R96). -/
inductive BusPart where
  | w (bytes : List Byte)
  | r (n : Nat)
deriving DecidableEq, Repr, Inhabited

/-- What the caller issues: a bus transaction given by its bytes (header bytes, then the second part), or
an operation selected by name, since the OP rows have no bit encoding (30_encoding R98, decision D3). -/
inductive Request where
  | frame (header : List Byte) (part : BusPart)
  | call (i : Instr)
deriving DecidableEq, Repr, Inhabited

end Sys2Proof
end

