-- ==== Sys2Proof/WellFormed.lean ====
section
/-! DEFINITION. Which instruction terms stand for an instruction of the spec: the operand constraints that
30_encoding R93, R109 and 44_numeric_conversions R232 put on an operand by itself. -/

namespace Sys2Proof

/-- A stream form carries "4 or more" bytes (30_encoding R93, R98); `write` and `read` take at least one
byte (R109); the inverse conversions need a divisor that is not zero (44_numeric_conversions R232). -/
def Instr.wf : Instr → Bool
  | .ddsWrs _ payload => decide (4 ≤ payload.length)
  | .ddsRds _ n => decide (4 ≤ n)
  | .write _ payload => decide (1 ≤ payload.length)
  | .read _ n => decide (1 ≤ n)
  | .ftwToFrequency _ clk => decide (clk ≠ 0)
  | .fscToFs _ rRef => decide (rRef ≠ 0)
  | .sysclkToNdiv _ clk _ => decide (clk ≠ 0)
  | .ddsWr1 _ _ | .ddsWr2 _ _ _ | .ddsWr3 _ _ _ _ | .ddsRd1 _ | .ddsRd2 _ | .ddsRd3 _ => true
  | .voltage _ | .code _ | .construct _ | .start _ | .acquireBuffer _ | .fill _ _ _ | .peek _ _ => true
  | .beat _ | .sampleEvent _ | .mirror _ | .iwEncode _ _ _ | .iwDecode _ => true
  | .init | .softReset | .ddsReset | .setPll _ _ | .setFtw _ | .setFrequency _ _ | .setPow _ => true
  | .setPhase _ | .setFsc _ | .setFullScaleCurrent _ _ | .sysclk _ _ _ | .frequencyToFtw _ _ => true
  | .phaseToPow _ | .fsToFsc _ _ | .storeN _ _ | .powToPhase _ => true

end Sys2Proof
end

