-- ==== Sys2Proof/Decode.lean ====
section
/-! DEFINITION. The Instruction Word (30_encoding R90 to R98), the decoder of requests, total on any bytes and
rejecting by name, and the encoder written from the same table. -/

namespace Sys2Proof

/-! ### Bytes -/

/-- `be_bytes_n(v)`: the `n` low bytes of `v`, most significant first (00_scope R9). -/
def beBytes : Nat → Nat → List Byte
  | 0, _ => []
  | n + 1, v => BitVec.ofNat 8 (v / 2 ^ (8 * n)) :: beBytes n v

/-- `from_be(bytes)` (00_scope R9). -/
def fromBe (bytes : List Byte) : Nat :=
  bytes.foldl (fun acc b => acc * 256 + b.toNat) 0

/-! ### The Instruction Word -/

/-- The three fields of an Instruction Word (30_encoding R90). -/
structure Header where
  rw : BitVec 1
  size : BitVec 2
  addr : Addr
deriving DecidableEq, Repr, Inhabited

/-- `iw_encode(rw, size, addr) = (rw << 15) OR (size << 13) OR addr` (30_encoding R91). -/
def iwEncode (rw : BitVec 1) (size : BitVec 2) (addr : Addr) : BitVec 16 :=
  (rw.setWidth 16 <<< 15) ||| (size.setWidth 16 <<< 13) ||| addr.setWidth 16

/-- `iw_decode(h) = (h[15], h[14:13], h[12:0])`, total (30_encoding R92). -/
def iwDecode (h : BitVec 16) : Header where
  rw := h.extractLsb' 15 1
  size := h.extractLsb' 13 2
  addr := h.extractLsb' 0 13

/-- `size_class(n)`: 1, 2, 3 bytes have a class each, 4 or more the stream class; 0 has none (30_encoding R94). -/
def sizeClass : Nat → Option (BitVec 2)
  | 0 => none
  | 1 => some 0
  | 2 => some 1
  | 3 => some 2
  | _ + 4 => some 3

/-- The two bytes of a header, bits 15 to 8 first (30_encoding R95). -/
def headerBytes (h : BitVec 16) : List Byte := beBytes 2 h.toNat

/-- The header a device reads from the first bytes of a transaction (42_dds_primitives R172 `from_be(h)`, R183). -/
def headerOfBytes (bytes : List Byte) : BitVec 16 := BitVec.ofNat 16 (fromBe bytes)

/-! ### Requests to instructions -/

/-- Why a request is no instruction. Each rejection is safe: nothing is run. -/
inductive DecodeError where
  /-- The first part of the transaction is not the two bytes of a header (30_encoding R96, R97). -/
  | headerLength
  /-- The header's read/not-write flag disagrees with the direction of the second part (30_encoding R90, R96). -/
  | direction
  /-- The second part's length disagrees with the header's size class (30_encoding R93, 42_dds_primitives R183). -/
  | length
  /-- A form of the Instruction Word called by name; it is selected by its bits (30_encoding R98). -/
  | namedForm
  /-- `Beat` or `SampleEvent` called by the caller; they "are hardware steps, not callable operations"
  (30_encoding R109). -/
  | notCallable
deriving DecidableEq, Repr, Inhabited

/-- The form a write frame stands for: the size class fixes 1, 2 or 3 bytes, the stream class carries 4 or more
(30_encoding R93, R97, R98). -/
def decodeWrite (size : BitVec 2) (addr : Addr) (payload : List Byte) : Except DecodeError Instr :=
  match size.toNat, payload with
  | 0, [p0] => .ok (.ddsWr1 addr p0)
  | 1, [p0, p1] => .ok (.ddsWr2 addr p0 p1)
  | 2, [p0, p1, p2] => .ok (.ddsWr3 addr p0 p1 p2)
  | 3, p0 :: p1 :: p2 :: p3 :: rest => .ok (.ddsWrs addr (p0 :: p1 :: p2 :: p3 :: rest))
  | _, _ => .error .length

/-- The form a read frame stands for (30_encoding R93, R97, R98). -/
def decodeRead (size : BitVec 2) (addr : Addr) (n : Nat) : Except DecodeError Instr :=
  match size.toNat, n with
  | 0, 1 => .ok (.ddsRd1 addr)
  | 1, 2 => .ok (.ddsRd2 addr)
  | 2, 3 => .ok (.ddsRd3 addr)
  | 3, k + 4 => .ok (.ddsRds addr (k + 4))
  | _, _ => .error .length

/-- A frame: the header's two bytes, then bytes written or bytes read, in the direction of bit 15
(30_encoding R90, R95, R96). -/
def decodeFrame (header : List Byte) (part : BusPart) : Except DecodeError Instr :=
  match header with
  | [_, _] =>
    let h := iwDecode (headerOfBytes header)
    match part with
    | .w payload => if h.rw = 0#1 then decodeWrite h.size h.addr payload else .error .direction
    | .r n => if h.rw = 1#1 then decodeRead h.size h.addr n else .error .direction
  | _ => .error .headerLength

/-- A call by name: any OP row that is a caller's operation (30_encoding R98, R109). -/
def decodeCall (i : Instr) : Except DecodeError Instr :=
  match i.format, i.agent with
  | .iw16, _ => .error .namedForm
  | .op, .sw => .ok i
  | .op, _ => .error .notCallable

/-- The instruction a request stands for. -/
def decode : Request → Except DecodeError Instr
  | .frame header part => decodeFrame header part
  | .call i => decodeCall i

/-! ### Instructions to requests -/

/-- The write frame of a form: direction 0, the form's size class, the address, then the payload (30_encoding
R96, R98). -/
def writeFrame (size : BitVec 2) (addr : Addr) (payload : List Byte) : Request :=
  .frame (headerBytes (iwEncode 0#1 size addr)) (.w payload)

/-- The read frame of a form (30_encoding R96, R98). -/
def readFrame (size : BitVec 2) (addr : Addr) (n : Nat) : Request :=
  .frame (headerBytes (iwEncode 1#1 size addr)) (.r n)

/-- The request that issues an instruction: the frame of an IW16 row, the name and operands of an OP row. -/
def encode : Instr → Request
  | .ddsWr1 addr p0 => writeFrame 0 addr [p0]
  | .ddsWr2 addr p0 p1 => writeFrame 1 addr [p0, p1]
  | .ddsWr3 addr p0 p1 p2 => writeFrame 2 addr [p0, p1, p2]
  | .ddsWrs addr payload => writeFrame 3 addr payload
  | .ddsRd1 addr => readFrame 0 addr 1
  | .ddsRd2 addr => readFrame 1 addr 2
  | .ddsRd3 addr => readFrame 2 addr 3
  | .ddsRds addr n => readFrame 3 addr n
  | .voltage code => .call (.voltage code)
  | .code signedSample => .call (.code signedSample)
  | .construct ch => .call (.construct ch)
  | .start ch => .call (.start ch)
  | .acquireBuffer ch => .call (.acquireBuffer ch)
  | .fill ch i v => .call (.fill ch i v)
  | .peek ch i => .call (.peek ch i)
  | .beat ch => .call (.beat ch)
  | .sampleEvent ch => .call (.sampleEvent ch)
  | .write addr payload => .call (.write addr payload)
  | .read addr n => .call (.read addr n)
  | .mirror f => .call (.mirror f)
  | .iwEncode rw size addr => .call (.iwEncode rw size addr)
  | .iwDecode h => .call (.iwDecode h)
  | .init => .call .init
  | .softReset => .call .softReset
  | .ddsReset => .call .ddsReset
  | .setPll divider pllConfig => .call (.setPll divider pllConfig)
  | .setFtw tuningWord => .call (.setFtw tuningWord)
  | .setFrequency frequency systemClock => .call (.setFrequency frequency systemClock)
  | .setPow pow => .call (.setPow pow)
  | .setPhase phase => .call (.setPhase phase)
  | .setFsc fsc => .call (.setFsc fsc)
  | .setFullScaleCurrent dacFs rDacRef => .call (.setFullScaleCurrent dacFs rDacRef)
  | .sysclk refclk refDoubler ndiv => .call (.sysclk refclk refDoubler ndiv)
  | .frequencyToFtw frequency sysclk => .call (.frequencyToFtw frequency sysclk)
  | .phaseToPow phase => .call (.phaseToPow phase)
  | .fsToFsc dacFs rDacRef => .call (.fsToFsc dacFs rDacRef)
  | .storeN w r => .call (.storeN w r)
  | .ftwToFrequency ftw sysclk => .call (.ftwToFrequency ftw sysclk)
  | .powToPhase pow => .call (.powToPhase pow)
  | .fscToFs fsc rDacRef => .call (.fscToFs fsc rDacRef)
  | .sysclkToNdiv sysclk refclk refDoubler => .call (.sysclkToNdiv sysclk refclk refDoubler)

/-! ### Words of the opcode table -/

/-- The bytes that follow the header in a table word of `nbits` bits: bits 23 to 16, then 31 to 24 and so on;
every bit from `nbits` up is 0. -/
def tablePayload (nbits w : Nat) (n : Nat) : List Byte :=
  (List.range n).map fun j => BitVec.ofNat 8 ((w % 2 ^ nbits) / 2 ^ (16 + 8 * j))

/-- The frame of a table word: the header's bytes, high byte first (30_encoding R95), then a second part of the
length its size class fixes; for the stream class, whose length no bit gives (30_encoding R97), the
shortest stream, 4 bytes (log 13). -/
def tableFrame (nbits w : Nat) : Request :=
  let h := BitVec.ofNat 16 (w % 2 ^ nbits)
  let f := iwDecode h
  let n := f.size.toNat + 1
  .frame (headerBytes h) (if f.rw = 0#1 then .w (tablePayload nbits w n) else .r n)

/-- The instruction the decoder reads from a word of spec/opcode_table.json; a word of fewer than 16 bits holds no
header. -/
def decodeTableWord (nbits w : Nat) : Option Instr :=
  if nbits < 16 then none else
    match decode (tableFrame nbits w) with
    | .ok i => some i
    | .error _ => none

end Sys2Proof
end

