-- ==== Sys2Proof/Machine/State.lean ====
section
/-! DEFINITION. The state of the block and of its environment agents as plain data (10_state R20), the reasons a
step can stop, and the machine right after a system reset (10_state R38, 70_reset_and_hazards R280). -/

namespace Sys2Proof.Machine

/-! ### One Waveform Output Channel -/

/-- The lifecycle phase of a channel (10_state R26). -/
inductive Phase where
  | unbuilt
  | ready
  | running
deriving DecidableEq, Repr, Inhabited

/-- One Waveform Output Channel (10_state R21 to R29). -/
structure Channel where
  /-- `buf[ch][0]` (R21). -/
  buf0 : List Code
  /-- `buf[ch][1]` (R21). -/
  buf1 : List Code
  /-- `buf[ch][2]` (R21). -/
  buf2 : List Code
  /-- `role[ch].filling`, owned by software (R22). -/
  filling : BufId
  /-- `role[ch].armed`, owned by the transfer engine, queued (R22). -/
  armed : BufId
  /-- `role[ch].active`, owned by the transfer engine, being streamed (R22). -/
  active : BufId
  /-- `idx[ch]`, the next element of the active buffer (R24). -/
  idx : Nat
  /-- `tc[ch]`, the transfer-complete flag (R25). -/
  tc : Bool
  /-- `phase[ch]` (R26). -/
  phase : Phase
  /-- `errie[ch]`, the error-interrupt enable (R27). -/
  errie : Bool
  /-- `out[ch]`, the output trace, oldest first (R28). -/
  out : List Code
  /-- `sw_ref[ch]`, the buffer the caller may read and write (R29). -/
  swRef : Option BufId
deriving DecidableEq, Repr, Inhabited

/-! ### The DDS protocol engine -/

/-- Whether a transaction's second part was written or read (10_state R31). -/
inductive TxKind where
  | write
  | read
deriving DecidableEq, Repr, Inhabited

/-- A transaction record of `dds.log` (10_state R31). -/
structure TxRecord where
  header : BitVec 16
  kind : TxKind
  bytes : List Byte
  ok : Bool
deriving DecidableEq, Repr, Inhabited

/-- The DDS protocol engine (10_state R31). -/
structure Dds where
  /-- `dds.inited` (R31, decision D34). -/
  inited : Bool
  /-- `dds.log`, oldest first (R31, decision D37). -/
  log : List TxRecord
deriving DecidableEq, Repr, Inhabited

/-! ### The DDS device (environment agent DEV) -/

/-- The DDS register space `DR` (20_memory R60, R63): pairs of a header address and the bytes last written
there, addresses strictly rising; an address that is not listed is `unknown`. -/
abbrev Memory := List (Nat × List Byte)

/-- The canonical form of the register space: addresses below `2^13`, strictly rising. -/
def Memory.wf : Memory → Bool
  | [] => true
  | [e] => decide (e.1 < 2 ^ 13)
  | e :: f :: m => decide (e.1 < f.1) && Memory.wf (f :: m)

/-- The MODEL's own: whether the device reads a frame as the block means it (log 10). -/
inductive Link where
  /-- The device is in the block's bit order: the standing premise of 20_memory R64 point 4. -/
  | inOrder
  /-- The device has been told the other bit order: "every later transaction is misread by the chip"
  (70_reset_and_hazards R296, 93_implementation_defined U9). -/
  | otherOrder
deriving DecidableEq, Repr, Inhabited

/-- The reference device (10_state R36, 42_dds_primitives R177 to R182). -/
structure Device where
  /-- `dev.reg` (R36). -/
  regs : Memory
  /-- `dev.reset_pending` (R36, R181). -/
  resetPending : Bool
  /-- `DEV_ID`, the identity of the chip on the bus (R179). -/
  id : BitVec 16
  /-- The MODEL's own: whether the device reads a frame as the block means it (20_memory R64 point 4,
  93_implementation_defined U9; log 10). -/
  link : Link
  /-- The MODEL's own: the chip was reset outside the block while `dds.inited` was 1, and no `init` has succeeded since, so
  that the device effects of setters are any value (93_implementation_defined U11; log 19). -/
  resetUnseen : Bool
  /-- The MODEL's own: a DDS reset has taken effect at an update strobe since the DDS-reset register was last
  written, so that its read-back is any value (93_implementation_defined U8; log 11). -/
  resetTaken : Bool
deriving DecidableEq, Repr, Inhabited

/-! ### The caller and the order of steps -/

/-- The position "inside a multi-step DDS operation" in "its fixed step list" (10_state R30): which bus transaction of the
operation comes next, with the operand it still needs. -/
inductive OpStep where
  /-- `init()` before its step 2, the part-ID read (43_dds_operations R190). -/
  | initReadId
  /-- `init()` before its step 3, the Power-control write (R190). -/
  | initPower
  /-- `set_pll()` before its step 2, the PLL-control write (R193). -/
  | pllControl (pllConfig : Byte)
deriving DecidableEq, Repr, Inhabited

/-- What an operation returns when it succeeds (30_encoding R109). -/
inductive Value where
  /-- "nothing", or `ok`. -/
  | unit
  /-- An Output Code (`code`, `peek`). -/
  | code (c : Code)
  /-- A value in `Q` (`voltage`, `sysclk`, the inverse conversions). -/
  | rational (q : Rat)
  /-- The buffer reference of `acquire_buffer`. -/
  | bufRef (b : BufId)
  /-- The bytes of a `read`. -/
  | bytes (bs : List Byte)
  /-- The byte of `mirror`. -/
  | byte (b : Byte)
  /-- The header of `iw_encode`. -/
  | header (h : BitVec 16)
  /-- The fields of `iw_decode`. -/
  | fields (h : Header)
  /-- A tuning word. -/
  | ftw (w : BitVec 48)
  /-- A phase word. -/
  | pow (w : BitVec 14)
  /-- A full-scale-current word. -/
  | fsc (w : BitVec 10)
  /-- The word of `store_N`. -/
  | word (n : Nat)
deriving DecidableEq, Repr, Inhabited

/-- What the latest finished operation handed its caller: a value, or one of the two typed failures, which are all
the failures there are (60_exceptions R250, R251, R254). -/
inductive Result where
  /-- No operation has returned yet. -/
  | nothing
  | returned (v : Value)
  /-- `BusError(e)` (R250). -/
  | busError (e : TransportError)
  /-- `IdentityError(v)`, "carrying that exact value" (R251). -/
  | identityError (v : BitVec 16)
deriving DecidableEq, Repr, Inhabited

/-- Whose step comes next in the total order of steps (00_scope R11, 20_memory R72). -/
inductive Turn where
  /-- The caller: its next call, the next bus transaction of the DDS operation it is in, or one more poll while it spins in
  `acquire_buffer`. -/
  | sw
  /-- The sampling timer: one counter tick, with the sample event it may emit (10_state R40). -/
  | tick
  /-- The device-level update strobe of the caller's surroundings (42_dds_primitives R181). -/
  | updateStrobe
  /-- A chip power-up or hardware reset the block did not cause (70_reset_and_hazards R282, U11). -/
  | chipReset
deriving DecidableEq, Repr, Inhabited

/-- The state of the block, its environment agents and its caller. -/
structure State where
  /-- The OPEN parameters (00_scope R7); no step writes them. -/
  cfg : Params
  /-- Channel 0 (10_state R20). -/
  ch0 : Channel
  /-- Channel 1 (10_state R20). -/
  ch1 : Channel
  /-- The DDS protocol engine (10_state R31). -/
  dds : Dds
  /-- The position inside a DDS operation of several transactions, none between operations: it "is not kept between calls"
  (10_state R30). -/
  ddsOp : Option OpStep
  /-- The DDS device (10_state R36). -/
  dev : Device
  /-- `tmr.cnt`, the sampling timer's counter (10_state R40). -/
  tmrCnt : Nat
  /-- The MODEL's own: the next draws of `BUSERR` (42_dds_primitives R173; log 3). -/
  busDraws : List (Option TransportError)
  /-- The MODEL's own: how many transactions have drawn free values (log 3). -/
  draws : Nat
  /-- The MODEL's own: the caller's remaining calls, in program order (10_state R30; log 1). -/
  calls : List Request
  /-- The MODEL's own: whose steps come next (20_memory R72; log 1). -/
  sched : List Turn
  /-- The MODEL's own: the channel in whose `acquire_buffer` the caller spins (41_waveform_channel R146; log 8). -/
  swHold : Option Chan
  /-- The MODEL's own: what the latest finished operation handed its caller (log 9). -/
  result : Result
  /-- The MODEL's own: the caller's `out_buffer` after the latest `read` (42_dds_primitives R171; log 9). -/
  outBuf : List Byte
deriving DecidableEq, Repr, Inhabited

/-! ### Reasons to stop -/

/-- Faults of the model. The block itself has none: its failures are results (60_exceptions R254). -/
inductive Fault where
  /-- An access to an element of a sample buffer that does not exist (10_state R21). Raised by `Beat`,
  `SampleEvent`, `fill` and `peek` in a state whose buffers are not `BATCH` long or whose index is out of range;
  no state that meets the channel invariant has one. Safe. -/
  | noSuchElement
deriving DecidableEq, Repr, Inhabited

/-- Refusals: the calls the spec gives no meaning (60_exceptions R256). Each is safe: a claim about a run that
contains one cannot be proved. -/
inductive Refusal where
  /-- An instruction without a meaning; raised by `exec` only. Safe. -/
  | notModelled (mnemonic : String)
  /-- The request at the head of the caller's program is no instruction; raised by `step`. Safe. -/
  | undecodable (e : DecodeError)
  /-- `construct` of a channel that is not `UNBUILT` (41_waveform_channel R140, U2). Safe. -/
  | alreadyConstructed
  /-- `start` of a channel that is not `READY` (41_waveform_channel R143, U3). Safe. -/
  | notReady
  /-- Any other operation on an `UNBUILT` channel (60_exceptions R256). Safe. -/
  | channelUnbuilt
  /-- `Beat` of a channel that is not `RUNNING`; it "requires phase[ch] = RUNNING" (41_waveform_channel R150). Safe. -/
  | notRunning
  /-- `fill` or `peek` without a buffer reference (41_waveform_channel R149, R158). Safe. -/
  | noReference
  /-- `fill` or `peek` with an index outside `0 .. BATCH-1` (41_waveform_channel R149, R158). Safe. -/
  | indexOutOfRange
  /-- `write` or `read` with a length of 0 (42_dds_primitives R170, R171, U12). Safe. -/
  | emptyPayload
  /-- A stream form with fewer than 4 bytes, which no transaction has (30_encoding R93). Raised by the forms
  `DDS.WRS` and `DDS.RDS` on an ill-formed operand. Safe. -/
  | shortStream
  /-- A high-level DDS operation other than `init` while `dds.inited = 0` (43_dds_operations R201, U19). Safe. -/
  | notInitialised
  /-- A conversion whose rounded result does not fit its word (44_numeric_conversions R221, U13). Safe. -/
  | conversionRange
  /-- An inverse conversion with a divisor of 0 (44_numeric_conversions R232). Safe. -/
  | zeroDivisor
deriving DecidableEq, Repr, Inhabited

/-! ### Reset -/

/-- The backing storage of one buffer before `construct`: `BATCH` elements of unspecified content (10_state R38). -/
def unbuiltBuffer (ch : Chan) (b : BufId) : List Code :=
  (List.range Config.params.batch).map (Config.storage ch b)

/-- A channel after a system reset: `UNBUILT`, no output, no reference; every other element is unspecified and
is a free value (10_state R38, U1; log 4). -/
def Channel.reset (ch : Chan) : Channel where
  buf0 := unbuiltBuffer ch .b0
  buf1 := unbuiltBuffer ch .b1
  buf2 := unbuiltBuffer ch .b2
  filling := (Config.unbuilt ch).filling
  armed := (Config.unbuilt ch).armed
  active := (Config.unbuilt ch).active
  idx := (Config.unbuilt ch).idx
  tc := (Config.unbuilt ch).tc
  phase := .unbuilt
  errie := (Config.unbuilt ch).errie
  out := []
  swRef := none

/-- The device after its power-up: every register unknown, no reset pending (10_state R38). -/
def Device.reset (id : BitVec 16) : Device where
  regs := []
  resetPending := false
  id := id
  link := .inOrder
  resetUnseen := false
  resetTaken := false

/-- The machine right after a system reset (10_state R38, 70_reset_and_hazards R280): nothing constructed, nothing
initialised, no program placed. -/
def State.reset : State where
  cfg := Config.params
  ch0 := Channel.reset .ch0
  ch1 := Channel.reset .ch1
  dds := { inited := false, log := [] }
  ddsOp := none
  dev := Device.reset Config.devId
  tmrCnt := Config.timerCnt
  busDraws := []
  draws := 0
  calls := []
  sched := []
  swHold := none
  result := .nothing
  outBuf := []

end Sys2Proof.Machine
end

