-- ==== Sys2Proof/Machine/Flags.lean ====
section
/-! DEFINITION. The flags of the block: what sets, clears and reads each (10_state R25 to R27, R31, R36). -/

namespace Sys2Proof.Machine

/-- Completion sets `tc`; setting it when it is already 1 leaves it 1, and nothing counts (10_state R25,
41_waveform_channel R151, 60_exceptions R259). -/
def Channel.setComplete (c : Channel) : Channel := { c with tc := true }

/-- `acquire_buffer` clears `tc`; nothing else does (10_state R25). -/
def Channel.clearComplete (c : Channel) : Channel := { c with tc := false }

/-- `start`: READY becomes RUNNING; there is no way back (10_state R26). -/
def Channel.enterRunning (c : Channel) : Channel := { c with phase := .running }

/-- Whether the channel has been constructed (10_state R26). -/
def Channel.built (c : Channel) : Bool := decide (c.phase ≠ .unbuilt)

/-- Whether sample events move codes (10_state R26, 41_waveform_channel R152). -/
def Channel.isRunning (c : Channel) : Bool := decide (c.phase = .running)

/-- `dds.inited` is set by a successful `init` and cleared by `soft_reset` (10_state R31). -/
def State.setInited (s : State) (b : Bool) : State := { s with dds := { s.dds with inited := b } }

end Sys2Proof.Machine
end

