-- ==== Sys2Proof/Machine/Operands.lean ====
section
/-! DEFINITION. What the operations compute from their operands, with no state: output codes, the Serial-config
transform, byte images of register words, rounding and the numeric conversions. -/

namespace Sys2Proof.Machine

/-! ### Output codes (40_code_voltage) -/

/-- `flip(c) = c XOR 0x8000`, "flip the top bit" (R130 to R132). -/
def flipCode (c : Code) : Code := c ^^^ 0x8000#16

/-- `signed_of(c) = as_i16(flip(c))` (R132). -/
def signedOf (c : Code) : Int := (flipCode c).toInt

/-- `voltage(code)`: the signed sample times `4.096 * 2.5 / 32768` volts (R130). -/
def voltageOf (c : Code) : Rat := (signedOf c : Rat) * (4.096 * 2.5 / 32768)

/-- `code(signed_sample)`: the sample's pattern with its top bit flipped (R131). -/
def codeOf (signedSample : BitVec 16) : Code := flipCode signedSample

/-! ### Serial-config (30_encoding R100, R111) -/

/-- `rev4(f)`: output bit `3 - i` is `f[i]` (00_scope R9). -/
def rev4 (f : Flags4) : Flags4 :=
  BitVec.ofBool (f.getLsbD 0) ++ BitVec.ofBool (f.getLsbD 1) ++ BitVec.ofBool (f.getLsbD 2) ++
    BitVec.ofBool (f.getLsbD 3)

/-- `mirror(f) = (rev4(f) << 4) OR f` (R100). -/
def mirrorOf (f : Flags4) : Byte := ((rev4 f).setWidth 8 <<< 4) ||| f.setWidth 8

/-- `mirror` on a whole byte uses its low nibble and discards the high one (R100, decision D21). -/
def mirrorByte (v : Byte) : Byte := mirrorOf (v.extractLsb' 0 4)

/-- The fields of a Serial-config byte (10_state R33, 30_encoding R111). -/
structure SerialFields where
  sdoEn : Bool
  lsbFirst : Bool
  softReset : Bool
  longInsn : Bool
deriving DecidableEq, Repr, Inhabited

/-- The fields of a byte: bits 0 to 3 in the listing order (R111, decision D20). -/
def serialDecode (v : Byte) : SerialFields where
  sdoEn := v.getLsbD 0
  lsbFirst := v.getLsbD 1
  softReset := v.getLsbD 2
  longInsn := v.getLsbD 3

/-- The byte of the fields: the four flags and their mirror (R100, R111). -/
def serialEncode (f : SerialFields) : Byte :=
  mirrorOf (BitVec.ofBool f.longInsn ++ BitVec.ofBool f.softReset ++ BitVec.ofBool f.lsbFirst ++
    BitVec.ofBool f.sdoEn)

/-- A byte is well formed when it is the mirror of its own low nibble (R111). -/
def serialWf (v : Byte) : Bool := decide (v = mirrorByte v)

/-! ### Byte images (30_encoding R103 to R107) -/

/-- `be_bytes_6(trunc_48(ftw))` (R103). -/
def ftwImage (w : Nat) : List Byte := beBytes 6 (w % 2 ^ 48)

/-- `be_bytes_2(zext_16(pow))` (R104). -/
def powImage (p : BitVec 14) : List Byte := beBytes 2 (p.setWidth 16).toNat

/-- `be_bytes_2(zext_16(fsc))` (R105). -/
def fscImage (c : BitVec 10) : List Byte := beBytes 2 (c.setWidth 16).toNat

/-- The part-ID value of the two bytes read, first byte high (R106). -/
def partIdValue (bytes : List Byte) : BitVec 16 := BitVec.ofNat 16 (fromBe bytes)

/-- The header of a write of `bytes` or a read of `n` bytes: direction, size class of the length, address
(R91, R94, R96); none where the length has no size class. -/
def headerFor (addr : Addr) : BusPart → Option (BitVec 16)
  | .w bytes => (sizeClass bytes.length).map fun size => iwEncode 0#1 size addr
  | .r n => (sizeClass n).map fun size => iwEncode 1#1 size addr

/-! ### Rounding and storing (00_scope R9, 44_numeric_conversions R221) -/

/-- `round(q)`: the nearest integer, a tie going away from zero (00_scope R9, decision D26). -/
def roundQ (q : Rat) : Int := if 0 ≤ q then (q + 1 / 2).floor else -(-q + 1 / 2).floor

/-- `store_N(r)`: the value if it fits, the low 48 bits of a tuning word too large, otherwise no value (R221). -/
def storeWord (w : StoreWidth) (r : Int) : Option Nat :=
  if 0 ≤ r ∧ r < 2 ^ w.bits then some r.toNat
  else if w = .w48 ∧ 2 ^ 48 ≤ r then some (r.toNat % 2 ^ 48)
  else none

/-! ### Conversions (44_numeric_conversions) -/

/-- `sysclk = refclk * (ref_doubler ? 2 : 1) * 2 * (ndiv + 2)` (R220). -/
def sysclkOf (refclk : Rat) (refDoubler : Bool) (ndiv : Nat) : Rat :=
  refclk * (if refDoubler then 2 else 1) * 2 * ((ndiv : Rat) + 2)

/-- `ftw = round(frequency * sysclk / 2^48)`, the literal formula (R222, R223). -/
def ftwOf (frequency sysclk : Rat) : Option (BitVec 48) :=
  (storeWord .w48 (roundQ (frequency * sysclk / 2 ^ 48))).map (BitVec.ofNat 48)

/-- `pow = round(phase / 2^14)`, the literal formula (R225, R226). -/
def powOf (phase : Rat) : Option (BitVec 14) :=
  (storeWord .w14 (roundQ (phase / 2 ^ 14))).map (BitVec.ofNat 14)

/-- `fsc = round(dac_fs * r_dac_ref * (1024/192/1.2) + 1024/192*72)`, with the plus sign (R228, R229). -/
def fscOf (dacFs rDacRef : Rat) : Option (BitVec 10) :=
  (storeWord .w10 (roundQ (dacFs * rDacRef * (1024 / 192 / 1.2) + 1024 / 192 * 72))).map (BitVec.ofNat 10)

/-- `ftw_to_frequency(ftw, sysclk) = ftw * 2^48 / sysclk` (R232). -/
def ftwInverse (ftw : BitVec 48) (sysclk : Rat) : Rat := (ftw.toNat : Rat) * 2 ^ 48 / sysclk

/-- `pow_to_phase(pow) = pow * 2^14` (R232). -/
def powInverse (pow : BitVec 14) : Rat := (pow.toNat : Rat) * 2 ^ 14

/-- `fsc_to_fs(fsc, r_dac_ref) = (fsc - 384) * (9/40) / r_dac_ref` (R232). -/
def fscInverse (fsc : BitVec 10) (rDacRef : Rat) : Rat := ((fsc.toNat : Rat) - 384) * (9 / 40) / rDacRef

/-- `sysclk_to_ndiv(sysclk, refclk, ref_doubler) = sysclk / (refclk * (2 or 1) * 2) - 2` (R232). -/
def ndivInverse (sysclk refclk : Rat) (refDoubler : Bool) : Rat :=
  sysclk / (refclk * (if refDoubler then 2 else 1) * 2) - 2

end Sys2Proof.Machine
end

