-- ==== Sys2Proof/Machine/Ops.lean ====
section
/-! DEFINITION. The named operations over state that the meanings share: channel and buffer access, the register
space, the bus transaction with its device, and the typed failures. -/

namespace Sys2Proof.Machine

/-! ### Channels and sample buffers (10_state R21 to R24, 20_memory R60 to R62) -/

/-- The channel `ch`. -/
def State.chan (s : State) : Chan → Channel
  | .ch0 => s.ch0
  | .ch1 => s.ch1

/-- Replace the channel `ch`; the other one keeps its storage (20_memory R61, R75). -/
def State.setChan (s : State) (ch : Chan) (c : Channel) : State :=
  match ch with
  | .ch0 => { s with ch0 := c }
  | .ch1 => { s with ch1 := c }

/-- The buffer `b` of a channel. -/
def Channel.buf (c : Channel) : BufId → List Code
  | .b0 => c.buf0
  | .b1 => c.buf1
  | .b2 => c.buf2

/-- Replace the buffer `b` of a channel. -/
def Channel.setBuf (c : Channel) (b : BufId) (l : List Code) : Channel :=
  match b with
  | .b0 => { c with buf0 := l }
  | .b1 => { c with buf1 := l }
  | .b2 => { c with buf2 := l }

/-- `BufRead(ch, b, i)`; none where the element does not exist (20_memory R62, R66). -/
def Channel.bufRead (c : Channel) (b : BufId) (i : Nat) : Option Code := (c.buf b)[i]?

/-- `BufWrite(ch, b, i, v)`; none where the element does not exist (20_memory R62, R66). -/
def Channel.bufWrite (c : Channel) (b : BufId) (i : Nat) (v : Code) : Option Channel :=
  if i < (c.buf b).length then some (c.setBuf b ((c.buf b).set i v)) else none

/-- `emit(ch, v)`: append to the output trace (00_scope R10). -/
def Channel.emit (c : Channel) (v : Code) : Channel := { c with out := c.out ++ [v] }

/-- The rotation of `acquire_buffer` with its clear of the flag, one atomic step: filling and armed are swapped and
the reference follows the filling role (41_waveform_channel R145, R147). -/
def Channel.rotate (c : Channel) : Channel :=
  { c.clearComplete with filling := c.armed, armed := c.filling, swRef := some c.armed }

/-- The completion actions: the index returns to 0, active and armed are swapped, the flag is set, whatever it was
(41_waveform_channel R150, R151). -/
def Channel.complete (c : Channel) : Channel :=
  { c.setComplete with idx := 0, active := c.armed, armed := c.active }

/-- `Beat(ch)`: move element `idx` of the active buffer, then step the index or complete (41_waveform_channel R150);
none where the element does not exist. -/
def Channel.beat (batch : Nat) (c : Channel) : Option Channel :=
  match c.bufRead c.active c.idx with
  | none => none
  | some v =>
    if c.idx + 1 < batch then some { c.emit v with idx := c.idx + 1 } else some (c.emit v).complete

/-- What `construct` gives the channel (41_waveform_channel R140 to R142, 10_state R38). -/
def Channel.constructed (batch : Nat) : Channel where
  buf0 := List.replicate batch 0#16
  buf1 := List.replicate batch 0#16
  buf2 := List.replicate batch 0#16
  filling := .b2
  armed := .b1
  active := .b0
  idx := 0
  tc := false
  phase := .ready
  errie := true
  out := []
  swRef := none

/-- The precondition `fill` and `peek` share: a channel, a reference, an index below `BATCH`; the buffer they act on
(41_waveform_channel R149, R158). -/
def State.swBuffer (s : State) (ch : Chan) (i : Nat) : Except Refusal BufId :=
  if (s.chan ch).built = false then .error .channelUnbuilt
  else match (s.chan ch).swRef with
    | none => .error .noReference
    | some b => if i < s.cfg.batch then .ok b else .error .indexOutOfRange

/-! ### What an operation hands its caller (60_exceptions R250 to R254) -/

/-- Return a value to the caller. -/
def State.returnValue (s : State) (v : Value) : State := { s with result := .returned v }

/-- `raise BusError(e)`: the operation in progress ends at once with that failure; control goes nowhere else
(60_exceptions R250, R252). -/
def State.raiseBusError (s : State) (e : TransportError) : State := { s with result := .busError e }

/-- `raise IdentityError(v)` (60_exceptions R251, R252). -/
def State.raiseIdentityError (s : State) (v : BitVec 16) : State := { s with result := .identityError v }

/-! ### The register space (20_memory R63) -/

/-- The bytes held under an address, none for `unknown`. -/
def Memory.get : Memory → Nat → Option (List Byte)
  | [], _ => none
  | e :: m, a => if e.1 = a then some e.2 else Memory.get m a

/-- Hold `p` under the address `a`. -/
def Memory.set : Memory → Nat → List Byte → Memory
  | [], a, p => [(a, p)]
  | e :: m, a, p =>
    if a < e.1 then (a, p) :: e :: m
    else if e.1 = a then (a, p) :: m
    else e :: Memory.set m a p

/-- Make the address `a` `unknown`. -/
def Memory.forget (m : Memory) (a : Nat) : Memory := m.filter fun e => decide (e.1 ≠ a)

/-! ### The reference device (42_dds_primitives R177 to R182) -/

/-- The fields of the first byte of a payload read as a Serial-config byte. -/
def serialFieldsOf (p : List Byte) : SerialFields := serialDecode (p.headD 0#8)

/-- Device soft reset: every register becomes unknown and no reset is pending (R180). What follows is read as before, in
the block's bit order (log 10). -/
def Device.softReset (d : Device) : Device :=
  { d with regs := [], resetPending := false, resetTaken := false }

/-- A chip power-up or hardware reset outside the block: every register is unknown and no reset is pending
(70_reset_and_hazards R282); as after every power-up the device is taken to be in the block's bit order (log 10). Where
`dds.inited` was 1 the block goes on with a chip it has not initialised (U11; log 19). -/
def Device.powerCycle (inited : Bool) (d : Device) : Device :=
  { d with
    regs := [], resetPending := false, link := .inOrder, resetTaken := false
    resetUnseen := d.resetUnseen || inited }

/-- The update strobe: a pending DDS reset takes effect; no register entry changes (R181, U8; log 11). -/
def Device.strobe (d : Device) : Device :=
  { d with resetPending := false, resetTaken := d.resetTaken || d.resetPending }

/-- `DevWrite(addr, p)` (R178): store the bytes under the header's address; the part-ID register takes no write (U7);
a Serial-config write with the soft-reset flag resets (R180), and any other one with the bit-order flag puts the device
into the other bit order (70_reset_and_hazards R296; log 10); a write of 1 to the DDS-reset register leaves a reset
pending (R181). DESIGN CHOICE: a byte with both flags only resets, the bit-order flag is lost with the rest of the
configuration and the device stays in the block's bit order (log 10). -/
def Device.write (cfg : Params) (d : Device) (addr : Addr) (p : List Byte) : Device :=
  let d := if addr = cfg.addrPartId then d else { d with regs := Memory.set d.regs addr.toNat p }
  let d :=
    if addr = cfg.addrSerial then
      if (serialFieldsOf p).softReset then d.softReset
      else { d with link := if (serialFieldsOf p).lsbFirst then .otherOrder else d.link }
    else d
  if addr = cfg.addrDdsReset then
    { d with resetTaken := false, resetPending := d.resetPending || decide (p = [1#8]) }
  else d

/-- A write whose transaction failed: its register is unknown (R182); a Serial-config byte that may have been taken may
have changed the bit order (log 21). -/
def Device.writeFailed (cfg : Params) (d : Device) (addr : Addr) (p : List Byte) : Device :=
  { d with
    regs := Memory.forget d.regs addr.toNat
    link := if addr = cfg.addrSerial ∧ (serialFieldsOf p).lsbFirst = true then .otherOrder else d.link }

/-- What a frame that the device does not read as the block means it makes of the device: anything. Every register is
unknown and the pending bit is a free value ("treat every later device effect as `any value`": U9, log 10; U11, log 19). -/
def Device.misread (d : Device) (n : Nat) : Device :=
  { d with regs := [], resetPending := Config.freeBit n }

/-- Whether the device reads a frame as the block means it. In the other bit order it reads none so, since "every later
transaction is misread" (70_reset_and_hazards R296; log 10). DESIGN CHOICE: a Serial-config byte whose
long-instruction-mode flag is 0 makes no difference, the device goes on reading a 2-byte header (R183,
91_not_in_source N27; log 23). -/
def Device.understands (d : Device) : Bool :=
  match d.link with
  | .inOrder => true
  | .otherOrder => false

/-- The free bytes of the `n`-th transaction. -/
def freeBytes (n len : Nat) : List Byte := (List.range len).map (Config.freeByte n)

/-- `DevRead(addr, len)` (R179): the chip's identity, the first bytes of what was written, or free bytes of the
`n`-th transaction; the DDS-reset register reads as anything after a reset took effect (U8; log 11). -/
def Device.read (cfg : Params) (d : Device) (addr : Addr) (len n : Nat) : List Byte :=
  if addr = cfg.addrPartId ∧ len = 2 then beBytes 2 d.id.toNat
  else if addr = cfg.addrDdsReset ∧ d.resetTaken = true then freeBytes n len
  else match Memory.get d.regs addr.toNat with
    | none => freeBytes n len
    | some p => if len ≤ p.length then p.take len else freeBytes n len

/-! ### The bus transaction (42_dds_primitives R172, R173) -/

/-- The `k`-th coming draw of `BUSERR`: listed in the state, or free (R173; log 3). -/
def State.drawAt (s : State) (k : Nat) : Option TransportError :=
  match s.busDraws[k]? with
  | some d => d
  | none => Config.busDraw (s.draws + k)

/-- A draw is used up by the transaction it decides. -/
def State.takeDraw (s : State) : State := { s with busDraws := s.busDraws.tail, draws := s.draws + 1 }

/-- Append a record to `dds.log` (R172). -/
def State.logTx (s : State) (r : TxRecord) : State :=
  { s with dds := { s.dds with log := s.dds.log ++ [r] } }

/-- `Bus.transaction([W(header), part])` (R172): one draw, then the device's answer; every transaction ends, with the
bytes read or with the transport's error, and appends one record, also when it fails. -/
def busTransaction (header : List Byte) (part : BusPart) (s : State) : Except TransportError (List Byte) × State :=
  let h := headerOfBytes header
  let addr := (iwDecode h).addr
  let seen := s.dev.understands
  let s' := s.takeDraw
  match part, s.drawAt 0 with
  | .w p, some e =>
    let dev := if seen then s.dev.writeFailed s.cfg addr p else s.dev.misread s.draws
    (.error e, ({ s' with dev := dev }).logTx ⟨h, .write, p, false⟩)
  | .w p, none =>
    let dev := if seen then s.dev.write s.cfg addr p else s.dev.misread s.draws
    (.ok [], ({ s' with dev := dev }).logTx ⟨h, .write, p, true⟩)
  | .r _, some e =>
    let dev := if seen then s.dev else s.dev.misread s.draws
    (.error e, ({ s' with dev := dev }).logTx ⟨h, .read, [], false⟩)
  | .r n, none =>
    let dev := if seen then s.dev else s.dev.misread s.draws
    let bytes := if seen then s.dev.read s.cfg addr n s.draws else freeBytes s.draws n
    (.ok bytes, ({ s' with dev := dev }).logTx ⟨h, .read, bytes, true⟩)

/-! ### The primitives as steps of an operation (42_dds_primitives R170, R171, 43_dds_operations R200) -/

/-- One `write` step with a given header: the next step on success, the typed failure otherwise
(42_dds_primitives R170, 60_exceptions R252). -/
def writeStep (h : BitVec 16) (payload : List Byte) (next : State → State) (s : State) : State :=
  match busTransaction (headerBytes h) (.w payload) s with
  | (.error e, s') => s'.raiseBusError e
  | (.ok _, s') => next s'

/-- One `read` step with a given header: the bytes go to the next step (42_dds_primitives R171, 60_exceptions R252). -/
def readStep (h : BitVec 16) (n : Nat) (next : List Byte → State → State) (s : State) : State :=
  match busTransaction (headerBytes h) (.r n) s with
  | (.error e, s') => s'.raiseBusError e
  | (.ok bytes, s') => next bytes s'

/-- The caller's own `read`: the bytes fill its `out_buffer` and are returned; after a failure the buffer's contents are
free values (42_dds_primitives R171, U5; log 9). -/
def readInto (h : BitVec 16) (n : Nat) (s : State) : State :=
  match busTransaction (headerBytes h) (.r n) s with
  | (.error e, s') => { s' with outBuf := freeBytes s.draws n }.raiseBusError e
  | (.ok bytes, s') => { s' with outBuf := bytes }.returnValue (.bytes bytes)

/-- One write step of a setter: a `write` step, whose device effect is any value on a chip that was reset while the block
held it for initialised (U11, 70_reset_and_hazards R291; log 19). The transaction itself, its record and what the caller is
handed are as on any other chip. -/
def setterStep (h : BitVec 16) (payload : List Byte) (next : State → State) (s : State) : State :=
  if s.dev.resetUnseen then { writeStep h payload next s with dev := s.dev.misread s.draws }
  else writeStep h payload next s

/-- A step that writes one byte to a register (30_encoding R98 `DDS.WR1`, R107). -/
def writeByte (addr : Addr) (b : Byte) (next : State → State) (s : State) : State :=
  writeStep (iwEncode 0#1 0#2 addr) [b] next s

/-- A step of a setter that writes one byte to a register (30_encoding R98 `DDS.WR1`, R107). -/
def setterByte (addr : Addr) (b : Byte) (next : State → State) (s : State) : State :=
  setterStep (iwEncode 0#1 0#2 addr) [b] next s

/-- The operation goes on with the step `o` at the caller's next turn (10_state R30). -/
def State.enterOp (s : State) (o : OpStep) : State := { s with ddsOp := some o }

/-- No step of the operation is left over: "an operation either runs to its end or stops at its first failing step"
(10_state R30). -/
def State.leaveOp (s : State) : State := { s with ddsOp := none }

/-- The end of an operation that returns nothing. -/
def returnOk (s : State) : State := s.returnValue .unit

/-- The end of a function whose result may not exist: the value, or the refusal the spec names. -/
def returnIf (why : Refusal) (v : Option Value) (s : State) : Host.Outcome State Fault Refusal :=
  match v with
  | none => .refused why
  | some v => .next (s.returnValue v)

/-- An operation under the precondition `dds.inited = 1` (43_dds_operations R201, 70_reset_and_hazards R291). -/
def whenInited (run : State → State) (s : State) : Host.Outcome State Fault Refusal :=
  if s.dds.inited = true then .next (run s) else .refused .notInitialised

/-- A setter that converts first: it needs `dds.inited = 1` and a conversion that is defined (43_dds_operations R195,
R197, R199). -/
def programWord {α : Type} (word : Option α) (run : α → State → State) (s : State) :
    Host.Outcome State Fault Refusal :=
  if s.dds.inited = true then
    match word with
    | none => .refused .conversionRange
    | some w => .next (run w s)
  else .refused .notInitialised

end Sys2Proof.Machine
end

