-- ==== Sys2Proof/Machine/CodeVoltage.lean ====
section
/-! DEFINITION. The Code/Voltage Converter (40_code_voltage): pure functions that only hand the caller a value. -/

namespace Sys2Proof.Machine

/-- `voltage(code)` (R130). -/
def execVoltage (code : Code) (s : State) : Host.Outcome State Fault Refusal :=
  .next (s.returnValue (.rational (voltageOf code)))

/-- `code(signed_sample)` (R131). -/
def execCode (signedSample : BitVec 16) (s : State) : Host.Outcome State Fault Refusal :=
  .next (s.returnValue (.code (codeOf signedSample)))

end Sys2Proof.Machine
end

