-- ==== Sys2Proof/Machine/Conversions.lean ====
section
/-! DEFINITION. The numeric conversions as operations (44_numeric_conversions): pure functions; a conversion whose
rounded result does not fit its word, and an inverse with a divisor of 0, are refused. -/

namespace Sys2Proof.Machine

/-- `sysclk(refclk, ref_doubler, ndiv)` (R220). -/
def execSysclk (refclk : Rat) (refDoubler : Bool) (ndiv : Nat) (s : State) : Host.Outcome State Fault Refusal :=
  .next (s.returnValue (.rational (sysclkOf refclk refDoubler ndiv)))

/-- `frequency_to_ftw(frequency, sysclk)` (R222). -/
def execFrequencyToFtw (frequency sysclk : Rat) (s : State) : Host.Outcome State Fault Refusal :=
  returnIf .conversionRange ((ftwOf frequency sysclk).map .ftw) s

/-- `phase_to_pow(phase)` (R225). -/
def execPhaseToPow (phase : Rat) (s : State) : Host.Outcome State Fault Refusal :=
  returnIf .conversionRange ((powOf phase).map .pow) s

/-- `fs_to_fsc(dac_fs, r_dac_ref)` (R228). -/
def execFsToFsc (dacFs rDacRef : Rat) (s : State) : Host.Outcome State Fault Refusal :=
  returnIf .conversionRange ((fscOf dacFs rDacRef).map .fsc) s

/-- `store_N(r)` (R221). -/
def execStoreN (w : StoreWidth) (r : Int) (s : State) : Host.Outcome State Fault Refusal :=
  returnIf .conversionRange ((storeWord w r).map .word) s

/-- `ftw_to_frequency(ftw, sysclk)` (R232). -/
def execFtwToFrequency (ftw : BitVec 48) (sysclk : Rat) (s : State) : Host.Outcome State Fault Refusal :=
  returnIf .zeroDivisor (if sysclk = 0 then none else some (.rational (ftwInverse ftw sysclk))) s

/-- `pow_to_phase(pow)` (R232). -/
def execPowToPhase (pow : BitVec 14) (s : State) : Host.Outcome State Fault Refusal :=
  .next (s.returnValue (.rational (powInverse pow)))

/-- `fsc_to_fs(fsc, r_dac_ref)` (R232). -/
def execFscToFs (fsc : BitVec 10) (rDacRef : Rat) (s : State) : Host.Outcome State Fault Refusal :=
  returnIf .zeroDivisor (if rDacRef = 0 then none else some (.rational (fscInverse fsc rDacRef))) s

/-- `sysclk_to_ndiv(sysclk, refclk, ref_doubler)` (R232). -/
def execSysclkToNdiv (sysclk refclk : Rat) (refDoubler : Bool) (s : State) : Host.Outcome State Fault Refusal :=
  returnIf .zeroDivisor (if refclk = 0 then none else some (.rational (ndivInverse sysclk refclk refDoubler))) s

end Sys2Proof.Machine
end

