-- ==== Sys2Proof/Machine/DdsOperations.lean ====
section
/-! DEFINITION. The DDS high-level operations (43_dds_operations), each the primitive steps of 30_encoding R110 in
their order, ended by the first step that fails (R200). A bus transaction is one atomic step (20_memory R77): the meaning
of `init` or `set_pll` makes the first transaction, `State.continueOp` each later one, and beats and the steps of the
surroundings may fall between them (20_memory R75; log 7). -/

namespace Sys2Proof.Machine

/-! ### `init()` -/

/-- `init()` (R190), its step 1: the mirrored Serial-config write. -/
def execInit (s : State) : Host.Outcome State Fault Refusal :=
  .next (writeByte s.cfg.addrSerial (mirrorOf s.cfg.serialInit) (·.enterOp .initReadId) s.leaveOp)

/-- Step 2 of `init()` (R190): the part-ID read and its comparison. -/
def initReadId (s : State) : State :=
  readStep (iwEncode 1#1 1#2 s.cfg.addrPartId) 2 (fun bytes s' =>
    if partIdValue bytes = Config.partId then s'.enterOp .initPower
    else s'.raiseIdentityError (partIdValue bytes)) s

/-- What a successful `init()` leaves: `dds.inited` set (R190), and a chip reset that the block has not seen made good (U11;
log 19). -/
def State.initDone (s : State) : State := { s.setInited true with dev := { s.dev with resetUnseen := false } }

/-- Step 3 of `init()` (R190): the Power-control write; `dds.inited` is set by success only. -/
def initPower (s : State) : State :=
  writeByte s.cfg.addrPower s.cfg.powerInit (fun s' => returnOk s'.initDone) s

/-! ### The other operations: they need `dds.inited = 1`, and all but `soft_reset` are setters in the sense of U11 (log 19) -/

/-- `soft_reset()` (R191): `dds.inited` is cleared before the write. Its byte is a mirrored one, which the device reads
whatever its reset made of it (42_dds_primitives R177; log 19). -/
def execSoftReset (s : State) : Host.Outcome State Fault Refusal :=
  whenInited (fun s => writeByte s.cfg.addrSerial (mirrorOf s.cfg.serialReset) returnOk (s.setInited false)) s

/-- `dds_reset()` (R192): 1 to the DDS-reset register. -/
def execDdsReset (s : State) : Host.Outcome State Fault Refusal :=
  whenInited (fun s => setterByte s.cfg.addrDdsReset 1#8 returnOk s) s

/-- `set_pll(divider, pll_config)` (R193), its step 1: the N-divider, the byte as given. -/
def execSetPll (divider pllConfig : Byte) (s : State) : Host.Outcome State Fault Refusal :=
  whenInited (fun s => setterByte s.cfg.addrNdiv divider (·.enterOp (.pllControl pllConfig)) s.leaveOp) s

/-- Step 2 of `set_pll` (R193): PLL control, the byte as given. -/
def setPllControl (pllConfig : Byte) (s : State) : State := setterByte s.cfg.addrPll pllConfig returnOk s

/-- `set_ftw(tuning_word)` (R194): the low 48 bits, header `0x61AB`. -/
def execSetFtw (tuningWord : Nat) (s : State) : Host.Outcome State Fault Refusal :=
  whenInited (setterStep (iwEncode 0#1 3#2 Config.addrFtw) (ftwImage tuningWord) returnOk) s

/-- `set_frequency(frequency, system_clock)` (R195): convert, write, return the word written. -/
def execSetFrequency (frequency systemClock : Rat) (s : State) : Host.Outcome State Fault Refusal :=
  programWord (ftwOf frequency systemClock) (fun w =>
    setterStep (iwEncode 0#1 3#2 Config.addrFtw) (ftwImage w.toNat) (·.returnValue (.ftw w))) s

/-- `set_pow(pow)` (R196). -/
def execSetPow (pow : BitVec 14) (s : State) : Host.Outcome State Fault Refusal :=
  whenInited (fun s => setterStep (iwEncode 0#1 1#2 s.cfg.addrPow) (powImage pow) returnOk s) s

/-- `set_phase(phase)` (R197). -/
def execSetPhase (phase : Rat) (s : State) : Host.Outcome State Fault Refusal :=
  programWord (powOf phase) (fun w s =>
    setterStep (iwEncode 0#1 1#2 s.cfg.addrPow) (powImage w) (·.returnValue (.pow w)) s) s

/-- `set_fsc(fsc)` (R198). -/
def execSetFsc (fsc : BitVec 10) (s : State) : Host.Outcome State Fault Refusal :=
  whenInited (fun s => setterStep (iwEncode 0#1 1#2 s.cfg.addrFsc) (fscImage fsc) returnOk s) s

/-- `set_full_scale_current(dac_fs, r_dac_ref)` (R199). -/
def execSetFullScaleCurrent (dacFs rDacRef : Rat) (s : State) : Host.Outcome State Fault Refusal :=
  programWord (fscOf dacFs rDacRef) (fun w s =>
    setterStep (iwEncode 0#1 1#2 s.cfg.addrFsc) (fscImage w) (·.returnValue (.fsc w)) s) s

/-! ### The later transactions of an operation -/

/-- The next step of the operation in progress: one bus transaction, after which the operation goes on, returns or has
failed (R200, 20_memory R74). -/
def State.continueOp (s : State) (o : OpStep) : State :=
  match o with
  | .initReadId => initReadId s.leaveOp
  | .initPower => initPower s.leaveOp
  | .pllControl pllConfig => setPllControl pllConfig s.leaveOp

end Sys2Proof.Machine
end

