-- ==== Sys2Proof/Machine/DdsPrimitives.lean ====
section
/-! DEFINITION. The DDS register primitives and the bus forms of the Instruction Word (42_dds_primitives R170, R171,
30_encoding R98). A form is the transaction with that header; `write` and `read` derive the header's size class
from the length. -/

namespace Sys2Proof.Machine

/-- `write(address, payload_bytes)` (R170): a length of 0 has no size class and starts no transaction. -/
def execWrite (addr : Addr) (payload : List Byte) (s : State) : Host.Outcome State Fault Refusal :=
  match headerFor addr (.w payload) with
  | none => .refused .emptyPayload
  | some h => .next (writeStep h payload returnOk s)

/-- `read(address, out_buffer)` with an `out_buffer` of `n` bytes (R171). -/
def execRead (addr : Addr) (n : Nat) (s : State) : Host.Outcome State Fault Refusal :=
  match headerFor addr (.r n) with
  | none => .refused .emptyPayload
  | some h => .next (readInto h n s)

/-- `DDS.WR1`: write 1 byte (30_encoding R98). -/
def execDdsWr1 (addr : Addr) (p0 : Byte) (s : State) : Host.Outcome State Fault Refusal :=
  .next (writeStep (iwEncode 0#1 0#2 addr) [p0] returnOk s)

/-- `DDS.WR2`: write 2 bytes (30_encoding R98). -/
def execDdsWr2 (addr : Addr) (p0 p1 : Byte) (s : State) : Host.Outcome State Fault Refusal :=
  .next (writeStep (iwEncode 0#1 1#2 addr) [p0, p1] returnOk s)

/-- `DDS.WR3`: write 3 bytes (30_encoding R98). -/
def execDdsWr3 (addr : Addr) (p0 p1 p2 : Byte) (s : State) : Host.Outcome State Fault Refusal :=
  .next (writeStep (iwEncode 0#1 2#2 addr) [p0, p1, p2] returnOk s)

/-- `DDS.WRS`: write a stream of 4 or more bytes (30_encoding R93, R97, R98). -/
def execDdsWrs (addr : Addr) (payload : List Byte) (s : State) : Host.Outcome State Fault Refusal :=
  if 4 ≤ payload.length then .next (writeStep (iwEncode 0#1 3#2 addr) payload returnOk s)
  else .refused .shortStream

/-- `DDS.RD1`: read 1 byte (30_encoding R98). -/
def execDdsRd1 (addr : Addr) (s : State) : Host.Outcome State Fault Refusal :=
  .next (readInto (iwEncode 1#1 0#2 addr) 1 s)

/-- `DDS.RD2`: read 2 bytes (30_encoding R98). -/
def execDdsRd2 (addr : Addr) (s : State) : Host.Outcome State Fault Refusal :=
  .next (readInto (iwEncode 1#1 1#2 addr) 2 s)

/-- `DDS.RD3`: read 3 bytes (30_encoding R98). -/
def execDdsRd3 (addr : Addr) (s : State) : Host.Outcome State Fault Refusal :=
  .next (readInto (iwEncode 1#1 2#2 addr) 3 s)

/-- `DDS.RDS`: read a stream of 4 or more bytes (30_encoding R93, R97, R98). -/
def execDdsRds (addr : Addr) (n : Nat) (s : State) : Host.Outcome State Fault Refusal :=
  if 4 ≤ n then .next (readInto (iwEncode 1#1 3#2 addr) n s) else .refused .shortStream

end Sys2Proof.Machine
end

