-- ==== Sys2Proof/Machine/Encoding.lean ====
section
/-! DEFINITION. The header functions and the Serial-config transform as operations (30_encoding R91, R92, R100). -/

namespace Sys2Proof.Machine

/-- `mirror(f)` (R100). -/
def execMirror (f : Flags4) (s : State) : Host.Outcome State Fault Refusal :=
  .next (s.returnValue (.byte (mirrorOf f)))

/-- `iw_encode(rw, size, addr)` (R91). -/
def execIwEncode (rw : BitVec 1) (size : BitVec 2) (addr : Addr) (s : State) : Host.Outcome State Fault Refusal :=
  .next (s.returnValue (.header (iwEncode rw size addr)))

/-- `iw_decode(h)` (R92). -/
def execIwDecode (h : BitVec 16) (s : State) : Host.Outcome State Fault Refusal :=
  .next (s.returnValue (.fields (iwDecode h)))

end Sys2Proof.Machine
end

