-- ==== Sys2Proof/Machine/Waveform.lean ====
section
/-! DEFINITION. The Waveform Output Channel (41_waveform_channel): the caller's operations and the hardware step. -/

namespace Sys2Proof.Machine

/-- `construct(ch)` (R140 to R142): every element of the channel gets its value; only an `UNBUILT` channel can be
constructed (U2). -/
def execConstruct (ch : Chan) (s : State) : Host.Outcome State Fault Refusal :=
  if (s.chan ch).built then .refused .alreadyConstructed
  else .next (returnOk (s.setChan ch (Channel.constructed s.cfg.batch)))

/-- `start(ch)` (R143): READY becomes RUNNING and nothing else changes; a second `start` has no meaning (U3). -/
def execStart (ch : Chan) (s : State) : Host.Outcome State Fault Refusal :=
  match (s.chan ch).phase with
  | .unbuilt => .refused .channelUnbuilt
  | .running => .refused .notReady
  | .ready => .next (returnOk (s.setChan ch (s.chan ch).enterRunning))

/-- `acquire_buffer(ch)` (R145 to R147): while `tc` is 0 the caller sits in the spin, neither returning nor failing
(R146); with `tc` at 1 the rotation happens and the buffer's id is returned. -/
def execAcquireBuffer (ch : Chan) (s : State) : Host.Outcome State Fault Refusal :=
  if (s.chan ch).built = false then .refused .channelUnbuilt
  else if (s.chan ch).tc then
    .next ({ s.setChan ch (s.chan ch).rotate with swHold := none }.returnValue (.bufRef (s.chan ch).armed))
  else .next { s with swHold := some ch }

/-- `fill(ch, i, v)` (R149): one element of the referenced buffer. -/
def execFill (ch : Chan) (i : Nat) (v : Code) (s : State) : Host.Outcome State Fault Refusal :=
  match s.swBuffer ch i with
  | .error why => .refused why
  | .ok b =>
    match (s.chan ch).bufWrite b i v with
    | none => .fault .noSuchElement
    | some c => .next (returnOk (s.setChan ch c))

/-- `peek(ch, i)` (R158): the code in one element of the referenced buffer. -/
def execPeek (ch : Chan) (i : Nat) (s : State) : Host.Outcome State Fault Refusal :=
  match s.swBuffer ch i with
  | .error why => .refused why
  | .ok b =>
    match (s.chan ch).bufRead b i with
    | none => .fault .noSuchElement
    | some v => .next (s.returnValue (.code v))

/-- The engine's step on the machine: one beat of a RUNNING channel; the caller is handed nothing (R150). -/
def beatStep (ch : Chan) (s : State) : Host.Outcome State Fault Refusal :=
  match (s.chan ch).beat s.cfg.batch with
  | none => .fault .noSuchElement
  | some c => .next (s.setChan ch c)

/-- `Beat(ch)` (R150): it "requires phase[ch] = RUNNING". -/
def execBeat (ch : Chan) (s : State) : Host.Outcome State Fault Refusal :=
  if (s.chan ch).isRunning then beatStep ch s else .refused .notRunning

/-- `SampleEvent(ch)` (60_exceptions R258): the event and the beat it causes are one step (point 3); an event of a
channel that is not RUNNING is dropped, not queued (R152). -/
def execSampleEvent (ch : Chan) (s : State) : Host.Outcome State Fault Refusal :=
  if (s.chan ch).isRunning then beatStep ch s else .next s

end Sys2Proof.Machine
end

