-- ==== Sys2Proof/Machine/Dispatch.lean ====
section
/-! DEFINITION. One arm per instruction, in the order of spec/opcode_table.json. -/

namespace Sys2Proof.Machine

def exec (i : Instr) (s : State) : Host.Outcome State Fault Refusal :=
  match i with
  | .ddsWr1 addr p0 => Sys2Proof.Machine.execDdsWr1 addr p0 s
  | .ddsWr2 addr p0 p1 => Sys2Proof.Machine.execDdsWr2 addr p0 p1 s
  | .ddsWr3 addr p0 p1 p2 => Sys2Proof.Machine.execDdsWr3 addr p0 p1 p2 s
  | .ddsWrs addr payload => Sys2Proof.Machine.execDdsWrs addr payload s
  | .ddsRd1 addr => Sys2Proof.Machine.execDdsRd1 addr s
  | .ddsRd2 addr => Sys2Proof.Machine.execDdsRd2 addr s
  | .ddsRd3 addr => Sys2Proof.Machine.execDdsRd3 addr s
  | .ddsRds addr n => Sys2Proof.Machine.execDdsRds addr n s
  | .voltage c => Sys2Proof.Machine.execVoltage c s
  | .code x => Sys2Proof.Machine.execCode x s
  | .construct ch => Sys2Proof.Machine.execConstruct ch s
  | .start ch => Sys2Proof.Machine.execStart ch s
  | .acquireBuffer ch => Sys2Proof.Machine.execAcquireBuffer ch s
  | .fill ch k v => Sys2Proof.Machine.execFill ch k v s
  | .peek ch k => Sys2Proof.Machine.execPeek ch k s
  | .beat ch => Sys2Proof.Machine.execBeat ch s
  | .sampleEvent ch => Sys2Proof.Machine.execSampleEvent ch s
  | .write addr payload => Sys2Proof.Machine.execWrite addr payload s
  | .read addr n => Sys2Proof.Machine.execRead addr n s
  | .mirror f => Sys2Proof.Machine.execMirror f s
  | .iwEncode rw size addr => Sys2Proof.Machine.execIwEncode rw size addr s
  | .iwDecode h => Sys2Proof.Machine.execIwDecode h s
  | .init => Sys2Proof.Machine.execInit s
  | .softReset => Sys2Proof.Machine.execSoftReset s
  | .ddsReset => Sys2Proof.Machine.execDdsReset s
  | .setPll divider pllConfig => Sys2Proof.Machine.execSetPll divider pllConfig s
  | .setFtw w => Sys2Proof.Machine.execSetFtw w s
  | .setFrequency f clk => Sys2Proof.Machine.execSetFrequency f clk s
  | .setPow w => Sys2Proof.Machine.execSetPow w s
  | .setPhase ph => Sys2Proof.Machine.execSetPhase ph s
  | .setFsc w => Sys2Proof.Machine.execSetFsc w s
  | .setFullScaleCurrent fs r => Sys2Proof.Machine.execSetFullScaleCurrent fs r s
  | .sysclk refclk dbl ndiv => Sys2Proof.Machine.execSysclk refclk dbl ndiv s
  | .frequencyToFtw f clk => Sys2Proof.Machine.execFrequencyToFtw f clk s
  | .phaseToPow ph => Sys2Proof.Machine.execPhaseToPow ph s
  | .fsToFsc fs r => Sys2Proof.Machine.execFsToFsc fs r s
  | .storeN w r => Sys2Proof.Machine.execStoreN w r s
  | .ftwToFrequency w clk => Sys2Proof.Machine.execFtwToFrequency w clk s
  | .powToPhase w => Sys2Proof.Machine.execPowToPhase w s
  | .fscToFs w r => Sys2Proof.Machine.execFscToFs w r s
  | .sysclkToNdiv clk refclk dbl => Sys2Proof.Machine.execSysclkToNdiv clk refclk dbl s

end Sys2Proof.Machine
end

