-- ==== Sys2Proof/Machine/Environment.lean ====
section
/-! DEFINITION. The steps of the block's surroundings that are no row of the opcode table: the timer's counter
(10_state R40), the update strobe (42_dds_primitives R181) and a chip reset the block did not cause
(70_reset_and_hazards R282, U11). -/

namespace Sys2Proof.Machine

/-- The counter after one counter tick: it "advances by one per counter tick, wraps to 0" (10_state R40). -/
def nextCount (cfg : Params) (cnt : Nat) : Nat := if cnt + 1 < cfg.timerPeriod then cnt + 1 else 0

/-- The channel whose sample event is emitted at a counter value: the one whose `TICK_OFFSET` it is (10_state R40,
60_exceptions R258). -/
def eventAt (cfg : Params) (cnt : Nat) : Option Chan :=
  if cnt = cfg.tickOffset .ch0 then some .ch0
  else if cnt = cfg.tickOffset .ch1 then some .ch1
  else none

/-- The counter of the machine after one counter tick. -/
def State.advanceTimer (s : State) : State := { s with tmrCnt := nextCount s.cfg s.tmrCnt }

/-- `UpdateStrobe` (42_dds_primitives R181). -/
def State.updateStrobe (s : State) : State := { s with dev := s.dev.strobe }

/-- A chip power-up or hardware reset outside the block: the device loses its registers; `dds.inited` stays as it is,
"the block cannot see it" (U11). -/
def State.chipReset (s : State) : State := { s with dev := s.dev.powerCycle s.dds.inited }

/-! ### The caller's program -/

/-- The caller's next step, if it has one: one more poll of the `acquire_buffer` it spins in (41_waveform_channel R146),
the next transaction of the DDS operation it is in (20_memory R74, R75; log 7), or its next call taken off its program
(log 1). It is never in two operations at a time (70_reset_and_hazards R293). -/
inductive SwStep where
  | poll (ch : Chan)
  | resume (o : OpStep)
  | issue (r : Request)
  | idle
deriving DecidableEq, Repr, Inhabited

/-- Fetch the caller's next step. -/
def State.nextSwStep (s : State) : SwStep :=
  match s.swHold with
  | some ch => .poll ch
  | none =>
    match s.ddsOp with
    | some o => .resume o
    | none =>
      match s.calls with
      | [] => .idle
      | r :: _ => .issue r

/-- The caller's program after its next call has been taken. -/
def State.popCall (s : State) : State := { s with calls := s.calls.tail }

/-- The order of steps after the next turn has been taken. -/
def State.popTurn (s : State) : State := { s with sched := s.sched.tail }

end Sys2Proof.Machine
end

