-- ==== Sys2Proof/Machine/Turns.lean ====
section
/-! DEFINITION. The turns in which an instruction runs: the caller's and the sampling timer's (00_scope R11). -/

namespace Sys2Proof.Machine

/-- The caller's turn: a poll of the `acquire_buffer` it spins in, the next transaction of the DDS operation it is in, or
the instruction its next request decodes to; with no call left the caller does nothing. -/
def swTurn (s : State) : Host.Outcome State Fault Refusal :=
  match s.nextSwStep with
  | .poll ch => exec (.acquireBuffer ch) s
  | .resume o => .next (s.continueOp o)
  | .idle => .next s
  | .issue r =>
    match decode r with
    | .error e => .refused (.undecodable e)
    | .ok i => exec i s.popCall

/-- The timer's turn: one counter tick, then the sample event of the channel whose offset the counter has reached. -/
def timerTurn (s : State) : Host.Outcome State Fault Refusal :=
  match eventAt s.cfg s.advanceTimer.tmrCnt with
  | none => .next s.advanceTimer
  | some ch => exec (.sampleEvent ch) s.advanceTimer

end Sys2Proof.Machine
end

