-- ==== Sys2Proof/Machine/Step.lean ====
section
/-! DEFINITION. One step of the whole machine: the next turn of the total order of steps (20_memory R72), and where the
caller's next instruction is placed. -/

namespace Sys2Proof.Machine

/-- One step: the agent whose turn it is takes its step (00_scope R11). With no turn listed no agent takes a step and
nothing changes: a caller that calls nothing, a timer that has stopped (60_exceptions R258 point 4; log 1). -/
def step (s : State) : Host.Outcome State Fault Refusal :=
  match s.sched with
  | [] => .next s
  | .sw :: _ => swTurn s.popTurn
  | .tick :: _ => timerTurn s.popTurn
  | .updateStrobe :: _ => .next s.popTurn.updateStrobe
  | .chipReset :: _ => .next s.popTurn.chipReset

/-- `s` with the instruction of a table word as the caller's next call and the caller's turn next; the caller is in no
spin and in no DDS operation, since it takes no call there (log 13). -/
def State.withFetchWord (s : State) (nbits w : Nat) : State :=
  { s with calls := tableFrame nbits w :: s.calls, sched := .sw :: s.sched, swHold := none, ddsOp := none }

end Sys2Proof.Machine
end

