-- ==== Sys2Proof/Safety.lean ====
section
/-! DEFINITION. What a good state and a safe run are, in the terms the statements use: the invariants of 10_state R21 to
R29, the missed deadline of 70_reset_and_hazards R287, and runs of instructions. -/

namespace Sys2Proof.Machine

/-- The three roles hold three different buffers: "Exactly one buffer holds each role at any instant" (10_state R23). -/
abbrev Channel.rolesDistinct (c : Channel) : Prop :=
  c.filling ≠ c.armed ∧ c.armed ≠ c.active ∧ c.filling ≠ c.active

/-- The invariant of a constructed channel: the role invariant (10_state R23), buffers of `BATCH` codes (R21), an index
in range (R24), a reference that is none or the filling buffer (R29), the error interrupt enabled (R27); and before
`start` nothing has been consumed and no reference handed out (41_waveform_channel R143, R146, R152). -/
abbrev Channel.BuiltInv (batch : Nat) (c : Channel) : Prop :=
  c.rolesDistinct ∧ c.buf0.length = batch ∧ c.buf1.length = batch ∧ c.buf2.length = batch ∧
    c.idx < batch ∧ (c.swRef = none ∨ c.swRef = some c.filling) ∧ c.errie = true ∧
    (c.phase = .ready → c.idx = 0 ∧ c.tc = false ∧ c.out = [] ∧ c.swRef = none)

/-- The invariant of a channel: before `construct` there is no reference and no output (10_state R28, R29, R38), from
then on `Channel.BuiltInv`. -/
abbrev Channel.Inv (batch : Nat) (c : Channel) : Prop :=
  (c.phase = .unbuilt → c.swRef = none ∧ c.out = []) ∧ (c.phase ≠ .unbuilt → c.BuiltInv batch)

/-- The invariant of the machine: the parameters meet 00_scope R7, both channels are as above, the register space is in
its canonical form and holds nothing for the part-ID register (U7), a caller that spins does so on a constructed
channel, it is not in two operations at once (70_reset_and_hazards R293), and it is inside a `set_pll` only while
`dds.inited` is 1 (43_dds_operations R201). -/
abbrev State.Inv (s : State) : Prop :=
  s.cfg.Wf ∧ s.ch0.Inv s.cfg.batch ∧ s.ch1.Inv s.cfg.batch ∧ Memory.wf s.dev.regs = true ∧
    Memory.get s.dev.regs s.cfg.addrPartId.toNat = none ∧
    (s.swHold.all fun ch => (s.chan ch).built) = true ∧ (s.swHold = none ∨ s.ddsOp = none) ∧
    (s.dds.inited = true ∨ s.ddsOp = none ∨ s.ddsOp = some .initReadId ∨ s.ddsOp = some .initPower)

/-- The next beat of this channel is a completion that finds `tc` still 1: the missed refill deadline
(41_waveform_channel R151, 70_reset_and_hazards R287). Nothing in the block detects it. -/
def Channel.missesDeadline (batch : Nat) (c : Channel) : Bool :=
  c.isRunning && c.tc && decide (batch ≤ c.idx + 1)

/-- Whether software may read or write the buffer `b` of `ch`: only through its reference (10_state R22, R29). -/
def State.softwareOwns (s : State) (ch : Chan) (b : BufId) : Bool := decide ((s.chan ch).swRef = some b)

/-- Whether the transfer engine owns the buffer `b` of `ch`: it is armed or active (10_state R22). -/
def State.engineOwns (s : State) (ch : Chan) (b : BufId) : Bool :=
  decide (b = (s.chan ch).armed) || decide (b = (s.chan ch).active)

/-- The channel an instruction is about, if any; the DDS operations and the pure functions are about none
(20_memory R75, 41_waveform_channel R156). -/
def instrChannel : Instr → Option Chan
  | .construct ch | .start ch | .acquireBuffer ch | .fill ch _ _ | .peek ch _ | .beat ch | .sampleEvent ch => some ch
  | .ddsWr1 _ _ | .ddsWr2 _ _ _ | .ddsWr3 _ _ _ _ | .ddsWrs _ _ => none
  | .ddsRd1 _ | .ddsRd2 _ | .ddsRd3 _ | .ddsRds _ _ => none
  | .voltage _ | .code _ | .write _ _ | .read _ _ | .mirror _ | .iwEncode _ _ _ | .iwDecode _ => none
  | .init | .softReset | .ddsReset | .setPll _ _ | .setFtw _ | .setFrequency _ _ | .setPow _ => none
  | .setPhase _ | .setFsc _ | .setFullScaleCurrent _ _ | .sysclk _ _ _ | .frequencyToFtw _ _ => none
  | .phaseToPow _ | .fsToFsc _ _ | .storeN _ _ | .ftwToFrequency _ _ | .powToPhase _ => none
  | .fscToFs _ _ | .sysclkToNdiv _ _ _ => none

/-- What one write transaction leaves alone: `t` is `s` but for the device, one more record of `dds.log`, the draw it used
up and what the caller is handed. -/
def State.LoggedWrite (s t : State) (h : BitVec 16) (p : List Byte) (ok : Bool) : Prop :=
  t = { s with
    dev := t.dev, dds := { s.dds with log := s.dds.log ++ [⟨h, .write, p, ok⟩] }
    busDraws := s.busDraws.tail, draws := s.draws + 1, result := t.result }

/-- Registers other than `addr` read in `t` as in `s`. -/
def State.OtherRegistersKept (s t : State) (addr : Addr) : Prop :=
  ∀ b, b ≠ addr.toNat → Memory.get t.dev.regs b = Memory.get s.dev.regs b

/-- `t` is `s` after one successful write of `p` to the plain register `addr` with header `h`: that register and no other
changes, one record is logged, and nothing outside the device, the log, the draws and the result changes. -/
def State.WroteRegister (s t : State) (addr : Addr) (h : BitVec 16) (p : List Byte) : Prop :=
  Memory.get t.dev.regs addr.toNat = some p ∧ s.OtherRegistersKept t addr ∧
    t.dev = { s.dev with regs := t.dev.regs } ∧ s.LoggedWrite t h p true

/-- `t` is `s` after one failed write of `p` to `addr` with header `h`: that register is unknown and no other changes, one
failed record is logged, and nothing outside the device, the log, the draws and the result changes. Only a Serial-config
write can have changed the device's bit order (log 21). -/
def State.FailedRegister (s t : State) (addr : Addr) (h : BitVec 16) (p : List Byte) : Prop :=
  Memory.get t.dev.regs addr.toNat = none ∧ s.OtherRegistersKept t addr ∧
    t.dev = { s.dev with regs := t.dev.regs, link := t.dev.link } ∧
    (addr ≠ s.cfg.addrSerial → t.dev.link = s.dev.link) ∧ s.LoggedWrite t h p false

/-- The device effect of a frame that is not read as the block means it: no register is known, the pending bit is anything,
and the rest of the device is as it was (70_reset_and_hazards R296, U9: log 10; U11: log 19). -/
def State.RegistersLost (s t : State) : Prop := t.dev = { s.dev with regs := [], resetPending := t.dev.resetPending }

/-- The device takes a setter's write as the block means it: it is in the block's bit order (log 10), and no chip reset
outside the block has gone unseen (U11; log 19). -/
abbrev Device.TakesSetters (d : Device) : Prop := d.link = .inOrder ∧ d.resetUnseen = false

/-- `t` is `s` after the successful write of a setter: logged and returned from whatever the device, stored where the device
takes setters, with no register known where it does not. -/
def State.SetterWrote (s t : State) (addr : Addr) (h : BitVec 16) (p : List Byte) : Prop :=
  s.LoggedWrite t h p true ∧ if s.dev.TakesSetters then s.WroteRegister t addr h p else s.RegistersLost t

/-- `t` is `s` after the failed write of a setter: a failed record whatever the device, its register unknown and every other
kept where the device takes setters, with no register known where it does not. -/
def State.SetterFailed (s t : State) (addr : Addr) (h : BitVec 16) (p : List Byte) : Prop :=
  s.LoggedWrite t h p false ∧ if s.dev.TakesSetters then s.FailedRegister t addr h p else s.RegistersLost t

/-- The next transaction of the DDS operation in progress, if there is one. -/
def State.resumeOp (s : State) : State :=
  match s.ddsOp with
  | none => s
  | some o => s.continueOp o

/-- The rest of a DDS operation, with nothing between its transactions: at most two are left after the first. -/
def State.finishOp (s : State) : State := s.resumeOp.resumeOp

/-- The channels whose sample events `n` counter ticks emit from the counter value `cnt`, in order (10_state R40). -/
def eventsIn (cfg : Params) : Nat → Nat → List Chan
  | 0, _ => []
  | n + 1, cnt => (eventAt cfg (nextCount cfg cnt)).toList ++ eventsIn cfg n (nextCount cfg cnt)

/-- Run instructions one after another, stopping at the first that gives no next state. -/
def runInstrs : List Instr → State → Host.Outcome State Fault Refusal
  | [], s => .next s
  | i :: is, s =>
    match exec i s with
    | .next s' => runInstrs is s'
    | .fault r => .fault r
    | .refused r => .refused r

/-- `n` beats of a channel. -/
def beats (ch : Chan) (n : Nat) : List Instr := List.replicate n (.beat ch)

end Sys2Proof.Machine
end

