-- ==== Sys2Proof/Certificates/Slice0/Obligations.lean ====
section
/-! DEFINITION. The statements for the provers. Rules are those of spec/; "log n" is notes/assumptions/n.md. A statement
that gives a next state by an equation says of everything it does not name that it is unchanged. -/

open Sys2Proof Sys2Proof.Machine

/-! ### Code/Voltage Converter (40_code_voltage) -/

/-- R130, by the closed form of R133: every code gives `(c - 32768) / 3200` volts, and the state keeps everything but the
result. -/
def Obligations.VoltageIsScaledSignedCode : Prop :=
  ∀ (c : Code) (s : State),
    exec (.voltage c) s = .next { s with result := .returned (.rational (((c.toNat : Rat) - 32768) / 3200)) }

/-- R131, R132: `code` of a signed sample `k` is the code `k + 32768`, the sample's pattern with its top bit flipped; the flip
is its own inverse, and `code` and `signed_of` undo each other on all codes and all signed samples. -/
def Obligations.CodeFlipsSampleTopBitAndIsInvertible : Prop :=
  (∀ (k : Int) (s : State), -32768 ≤ k → k ≤ 32767 →
    ∃ c : Code, (c.toNat : Int) = k + 32768 ∧ c = BitVec.ofInt 16 k ^^^ 0x8000#16 ∧ signedOf c = k ∧
      exec (.code (BitVec.ofInt 16 k)) s = .next { s with result := .returned (.code c) }) ∧
  (∀ c : Code, flipCode (flipCode c) = c) ∧
  (∀ c : Code, codeOf (BitVec.ofInt 16 (signedOf c)) = c)

/-- The laws 40_code_voltage derives in its R133 (an inference the spec marks as its own): linear, strictly increasing,
symmetric about `0x8000`, steps of 1/3200 V, range. -/
def Obligations.VoltageIsIncreasingAndSymmetric : Prop :=
  (∀ k : Int, -32768 ≤ k → k ≤ 32767 → voltageOf (codeOf (BitVec.ofInt 16 k)) = (k : Rat) / 3200) ∧
  (∀ a b : Code, a < b → voltageOf a < voltageOf b) ∧
  (∀ d : Nat, 1 ≤ d → d ≤ 32767 →
    voltageOf (BitVec.ofNat 16 (32768 + d)) = -voltageOf (BitVec.ofNat 16 (32768 - d))) ∧
  (∀ c : Code, c ≠ 0xFFFF#16 → voltageOf (c + 1#16) - voltageOf c = 1 / 3200) ∧
  (∀ c : Code, -10.24 ≤ voltageOf c ∧ voltageOf c ≤ 10.2396875)

/-! ### Encodings (30_encoding) -/

/-- The pseudocode and bit mapping of R100: output bits 3 to 0 are the flags, output bit `7 - i` is flag `i`, and on a
whole byte only the low nibble counts. -/
def Obligations.MirrorCopiesFlagsReversed : Prop :=
  (∀ (f : Flags4) (s : State), ∃ v : Byte, exec (.mirror f) s = .next { s with result := .returned (.byte v) } ∧
    ∀ i, i < 4 → v.getLsbD i = f.getLsbD i ∧ v.getLsbD (7 - i) = f.getLsbD i) ∧
  (∀ v : Byte, mirrorByte v = mirrorOf (v.extractLsb' 0 4))

/-- What 30_encoding derives about the transform in its R101 and R111 (inferences the spec marks as its own): the byte is a
palindrome, mirroring twice changes nothing, the high nibble equals the flags for four values only, and fields of a
well-formed byte encode back to it. -/
def Obligations.SerialConfigBytesRoundTrip : Prop :=
  (∀ (f : Flags4) (i : Nat), i < 8 → (mirrorOf f).getLsbD i = (mirrorOf f).getLsbD (7 - i)) ∧
  (∀ f : Flags4, mirrorByte (mirrorOf f) = mirrorOf f) ∧
  (∀ f : Flags4, (mirrorOf f).extractLsb' 4 4 = f ↔ f = 0x0#4 ∨ f = 0x6#4 ∨ f = 0x9#4 ∨ f = 0xF#4) ∧
  (∀ v : Byte, serialWf v = true → serialEncode (serialDecode v) = v) ∧
  (∀ f : SerialFields, serialWf (serialEncode f) = true ∧ serialDecode (serialEncode f) = f)

/-- R91: the header is `rw * 2^15 + size * 2^13 + addr`. -/
def Obligations.IwEncodePlacesFields : Prop :=
  ∀ (rw : BitVec 1) (size : BitVec 2) (addr : Addr) (s : State), ∃ h : BitVec 16,
    h.toNat = rw.toNat * 2 ^ 15 + size.toNat * 2 ^ 13 + addr.toNat ∧
      exec (.iwEncode rw size addr) s = .next { s with result := .returned (.header h) }

/-- R92: every 16-bit value decodes to its three fields, and encoding and decoding undo each other. -/
def Obligations.IwDecodeReadsFields : Prop :=
  (∀ (h : BitVec 16) (s : State), ∃ f : Header,
    f.rw.toNat = h.toNat / 2 ^ 15 ∧ f.size.toNat = h.toNat / 2 ^ 13 % 4 ∧ f.addr.toNat = h.toNat % 2 ^ 13 ∧
      exec (.iwDecode h) s = .next { s with result := .returned (.fields f) }) ∧
  (∀ (rw : BitVec 1) (size : BitVec 2) (addr : Addr), iwDecode (iwEncode rw size addr) = ⟨rw, size, addr⟩) ∧
  (∀ h : BitVec 16, iwEncode (iwDecode h).rw (iwDecode h).size (iwDecode h).addr = h)

/-- R94, with the refusal of the length 0 (R170, R171): the size class of a length, and no transaction without one; a stream
form with fewer than 4 bytes, which R93 excludes, stops too (the model's refusal, log 22). -/
def Obligations.SizeClassOfLength : Prop :=
  sizeClass 0 = none ∧ sizeClass 1 = some 0#2 ∧ sizeClass 2 = some 1#2 ∧ sizeClass 3 = some 2#2 ∧
  (∀ n, 4 ≤ n → sizeClass n = some 3#2) ∧
  (∀ (addr : Addr) (s : State), exec (.write addr []) s = .refused .emptyPayload ∧
    exec (.read addr 0) s = .refused .emptyPayload) ∧
  (∀ (addr : Addr) (p : List Byte) (s : State), p.length < 4 →
    exec (.ddsWrs addr p) s = .refused .shortStream) ∧
  (∀ (addr : Addr) (n : Nat) (s : State), n < 4 → exec (.ddsRds addr n) s = .refused .shortStream)

/-- R103 to R106: the byte images, most significant byte first, unused top bits 0. The byte order and padding of the phase and
current words and of the part ID are the spec's decision D18 (log 18). -/
def Obligations.ByteImagesAreBigEndian : Prop :=
  (∀ w : Nat, ftwImage w =
    [BitVec.ofNat 8 (w / 2 ^ 40), BitVec.ofNat 8 (w / 2 ^ 32), BitVec.ofNat 8 (w / 2 ^ 24),
      BitVec.ofNat 8 (w / 2 ^ 16), BitVec.ofNat 8 (w / 2 ^ 8), BitVec.ofNat 8 w]) ∧
  (∀ p : BitVec 14, ∃ a b : Byte, powImage p = [a, b] ∧ a.toNat < 64 ∧ a.toNat * 256 + b.toNat = p.toNat) ∧
  (∀ c : BitVec 10, ∃ a b : Byte, fscImage c = [a, b] ∧ a.toNat < 4 ∧ a.toNat * 256 + b.toNat = c.toNat) ∧
  (∀ a b : Byte, (partIdValue [a, b]).toNat = a.toNat * 256 + b.toNat)

/-! ### Waveform Output Channel (41_waveform_channel) -/

/-- The pseudocode of R140: everything of the channel gets its value, nothing of anything else changes; a channel that is not
`UNBUILT` is refused. The starting roles are the spec's decision D7, the error interrupt D13. -/
def Obligations.ConstructGivesChannelItsValues : Prop :=
  ∀ (ch : Chan) (s : State),
    ((s.chan ch).phase = .unbuilt →
      exec (.construct ch) s = .next { s.setChan ch
        { buf0 := List.replicate s.cfg.batch 0#16, buf1 := List.replicate s.cfg.batch 0#16,
          buf2 := List.replicate s.cfg.batch 0#16, filling := .b2, armed := .b1, active := .b0, idx := 0,
          tc := false, phase := .ready, errie := true, out := [], swRef := none } with
        result := .returned .unit }) ∧
    ((s.chan ch).phase ≠ .unbuilt → exec (.construct ch) s = .refused .alreadyConstructed)

/-- R143: `start` changes the phase from READY to RUNNING and nothing else; in any other phase it is refused. -/
def Obligations.StartChangesPhaseOnly : Prop :=
  ∀ (ch : Chan) (s : State),
    ((s.chan ch).phase = .ready →
      exec (.start ch) s =
        .next { s.setChan ch { s.chan ch with phase := .running } with result := .returned .unit }) ∧
    ((s.chan ch).phase = .running → exec (.start ch) s = .refused .notReady) ∧
    ((s.chan ch).phase = .unbuilt → exec (.start ch) s = .refused .channelUnbuilt)

/-- R145, R147: with `tc` at 1 the call clears it, swaps filling and armed, and returns the buffer now filling; nothing else of
the block changes. That the hold of a caller that spun in this call ends is the model's `swHold := none` (log 8). -/
def Obligations.AcquireRotatesAndReturnsConsumedBuffer : Prop :=
  ∀ (ch : Chan) (s : State), (s.chan ch).phase ≠ .unbuilt → (s.chan ch).tc = true →
    exec (.acquireBuffer ch) s =
      .next { s.setChan ch
        { s.chan ch with tc := false, filling := (s.chan ch).armed, armed := (s.chan ch).filling,
                         swRef := some (s.chan ch).armed } with
        swHold := none, result := .returned (.bufRef (s.chan ch).armed) }

/-- R146, R255: while `tc` is 0 the call neither returns nor fails: the caller is held, and a held caller's turn changes
nothing, takes no further call, and reports no fault. `swHold` is the model's way to hold the caller's place (log 8). -/
def Obligations.AcquireHoldsWhileNothingCompleted : Prop :=
  (∀ (ch : Chan) (s : State), (s.chan ch).phase ≠ .unbuilt → (s.chan ch).tc = false →
    exec (.acquireBuffer ch) s = .next { s with swHold := some ch }) ∧
  (∀ (ch : Chan) (s : State) (turns : List Turn), s.swHold = some ch → s.sched = .sw :: turns →
    (s.chan ch).phase ≠ .unbuilt → (s.chan ch).tc = false → step s = .next { s with sched := turns })

/-- The rows of R256 about channels: no operation on an `UNBUILT` channel, no access without a reference or outside the
buffer. The last clause is no row of R256: R150 says that `Beat` "requires phase[ch] = RUNNING", and that it is refused
otherwise is the model's choice (log 16). -/
def Obligations.ChannelCallsOutsideTheirPreconditionStop : Prop :=
  ∀ (ch : Chan) (i : Nat) (v : Code) (s : State),
    ((s.chan ch).phase = .unbuilt →
      exec (.start ch) s = .refused .channelUnbuilt ∧ exec (.acquireBuffer ch) s = .refused .channelUnbuilt ∧
      exec (.fill ch i v) s = .refused .channelUnbuilt ∧ exec (.peek ch i) s = .refused .channelUnbuilt) ∧
    ((s.chan ch).phase ≠ .unbuilt → (s.chan ch).swRef = none →
      exec (.fill ch i v) s = .refused .noReference ∧ exec (.peek ch i) s = .refused .noReference) ∧
    ((s.chan ch).phase ≠ .unbuilt → (s.chan ch).swRef ≠ none → s.cfg.batch ≤ i →
      exec (.fill ch i v) s = .refused .indexOutOfRange ∧ exec (.peek ch i) s = .refused .indexOutOfRange) ∧
    ((s.chan ch).phase ≠ .running → exec (.beat ch) s = .refused .notRunning)

/-- R149, with its frame: `fill` stores the code in element `i` of the referenced buffer; every other element of every buffer
of either channel reads as before, and nothing else changes. -/
def Obligations.FillStoresOneElement : Prop :=
  ∀ (ch : Chan) (i : Nat) (v : Code) (b : BufId) (s : State), s.Inv → (s.chan ch).phase ≠ .unbuilt →
    (s.chan ch).swRef = some b → i < s.cfg.batch →
    ∃ t, exec (.fill ch i v) s = .next t ∧
      (t.chan ch).bufRead b i = some v ∧
      (∀ d j, d ≠ b ∨ j ≠ i → (t.chan ch).bufRead d j = (s.chan ch).bufRead d j) ∧
      t.chan ch =
        { s.chan ch with buf0 := (t.chan ch).buf0, buf1 := (t.chan ch).buf1, buf2 := (t.chan ch).buf2 } ∧
      t.chan ch.other = s.chan ch.other ∧
      t = { s with ch0 := t.ch0, ch1 := t.ch1, result := .returned .unit }

/-- R158: `peek` returns the code of element `i` of the referenced buffer and writes no state. -/
def Obligations.PeekReadsReferencedElement : Prop :=
  ∀ (ch : Chan) (i : Nat) (b : BufId) (s : State), s.Inv → (s.chan ch).phase ≠ .unbuilt →
    (s.chan ch).swRef = some b → i < s.cfg.batch →
    ∃ v, (s.chan ch).bufRead b i = some v ∧
      exec (.peek ch i) s = .next { s with result := .returned (.code v) }

/-- R150, R151: a beat of a RUNNING channel emits element `idx` of the active buffer; before the last element it steps the
index, at the last one it completes, whatever `tc` was. A sample event of a RUNNING channel is that beat (R258). -/
def Obligations.BeatEmitsOneCodeAndCompletes : Prop :=
  ∀ (ch : Chan) (s : State) (v : Code) (i : Instr), i = .beat ch ∨ i = .sampleEvent ch →
    (s.chan ch).phase = .running → (s.chan ch).bufRead (s.chan ch).active (s.chan ch).idx = some v →
    exec i s = .next (s.setChan ch
      (if (s.chan ch).idx + 1 < s.cfg.batch then
        { s.chan ch with out := (s.chan ch).out ++ [v], idx := (s.chan ch).idx + 1 }
      else
        { s.chan ch with out := (s.chan ch).out ++ [v], idx := 0, tc := true,
                         active := (s.chan ch).armed, armed := (s.chan ch).active }))

/-- R152: a sample event of a channel that is not RUNNING is dropped, not queued. -/
def Obligations.EventBeforeStartIsDropped : Prop :=
  ∀ (ch : Chan) (s : State), (s.chan ch).phase ≠ .running → exec (.sampleEvent ch) s = .next s

/-- R37 point 3, R151, R255: a completion that finds `tc` already 1 (the missed deadline) ends in the same state as one
that finds it 0: it leaves no trace in any flag. -/
def Obligations.MissedDeadlineLeavesNoTrace : Prop :=
  ∀ (ch : Chan) (s : State), s.Inv → (s.chan ch).missesDeadline s.cfg.batch = true →
    ∃ t, exec (.beat ch) s = .next t ∧
      exec (.beat ch) (s.setChan ch { s.chan ch with tc := false }) = .next t

/-- R73 point 5 with R150: from the start of a batch, `BATCH` beats emit the active buffer's codes in order and then
complete. -/
def Obligations.BatchStreamsActiveBuffer : Prop :=
  ∀ (ch : Chan) (s : State), (s.chan ch).phase = .running → (s.chan ch).BuiltInv s.cfg.batch →
    (s.chan ch).idx = 0 →
    runInstrs (beats ch s.cfg.batch) s = .next (s.setChan ch
      { s.chan ch with out := (s.chan ch).out ++ (s.chan ch).buf (s.chan ch).active, tc := true,
                       active := (s.chan ch).armed, armed := (s.chan ch).active })

/-- R151 (its sentence on which batch repeats is an inference the spec marks as its own): with no `acquire_buffer` the engine
alternates between its two buffers, so batch `k+1` has the codes of batch `k-1`, and nothing else changes. -/
def Obligations.UnservedEngineRepeatsItsTwoBuffers : Prop :=
  ∀ (ch : Chan) (s : State), (s.chan ch).phase = .running → (s.chan ch).BuiltInv s.cfg.batch →
    (s.chan ch).idx = 0 →
    runInstrs (beats ch (3 * s.cfg.batch)) s = .next (s.setChan ch
      { s.chan ch with
        out := (s.chan ch).out ++ (s.chan ch).buf (s.chan ch).active ++ (s.chan ch).buf (s.chan ch).armed ++
          (s.chan ch).buf (s.chan ch).active
        tc := true, active := (s.chan ch).armed, armed := (s.chan ch).active })

/-- The latency the spec derives in R154 and R299 (an inference it marks as its own): the contents the filling buffer has when
`acquire_buffer` is called are emitted as the second batch after that call. -/
def Obligations.HandedOverBufferIsSecondNextBatch : Prop :=
  ∀ (ch : Chan) (s : State), s.Inv → (s.chan ch).phase = .running → (s.chan ch).idx = 0 → (s.chan ch).tc = true →
    ∃ t, runInstrs (.acquireBuffer ch :: (beats ch s.cfg.batch ++ beats ch s.cfg.batch)) s = .next t ∧
      (t.chan ch).out =
        (s.chan ch).out ++ (s.chan ch).buf (s.chan ch).active ++ (s.chan ch).buf (s.chan ch).filling

/-- What the spec derives in R153 (an inference it marks as its own): with one completion between consecutive calls, three
calls return the three buffers, in the order armed, active, filling of the start; the roles stay a permutation. -/
def Obligations.ThreeTimelyCallsReturnAllBuffers : Prop :=
  ∀ (ch : Chan) (s : State), s.Inv → (s.chan ch).phase = .running → (s.chan ch).idx = 0 → (s.chan ch).tc = true →
    ∃ t1 t2 t3,
      exec (.acquireBuffer ch) s = .next t1 ∧
      runInstrs (beats ch s.cfg.batch ++ [.acquireBuffer ch]) t1 = .next t2 ∧
      runInstrs (beats ch s.cfg.batch ++ [.acquireBuffer ch]) t2 = .next t3 ∧
      t1.result = .returned (.bufRef (s.chan ch).armed) ∧ t2.result = .returned (.bufRef (s.chan ch).active) ∧
      t3.result = .returned (.bufRef (s.chan ch).filling) ∧ (t3.chan ch).rolesDistinct

/-- R75, R156: no instruction, and no later transaction of a DDS operation, changes a channel it is not about, and no channel
instruction changes the DDS engine, its place in an operation or the device; the parameters never change. -/
def Obligations.InstancesShareNoState : Prop :=
  (∀ (i : Instr) (s t : State), exec i s = .next t →
    t.cfg = s.cfg ∧ (∀ ch, instrChannel i ≠ some ch → t.chan ch = s.chan ch) ∧
      (instrChannel i ≠ none → t.dds = s.dds ∧ t.ddsOp = s.ddsOp ∧ t.dev = s.dev)) ∧
  (∀ (o : OpStep) (s : State), (s.continueOp o).cfg = s.cfg ∧ ∀ ch, (s.continueOp o).chan ch = s.chan ch)

/-- Decision D38: the rules of one channel never read the other, so the order of two channels' sample events affects no
result. And R75: a sample event and a call about no channel (each DDS operation and primitive), or a later transaction of
a DDS operation (the model's form of the place between two transactions, log 7), may come in either order. -/
def Obligations.SampleEventsOfTwoChannelsCommute : Prop :=
  (∀ (ch : Chan) (s : State),
    runInstrs [.sampleEvent ch, .sampleEvent ch.other] s = runInstrs [.sampleEvent ch.other, .sampleEvent ch] s) ∧
  (∀ (ch : Chan) (i : Instr) (s t u : State), instrChannel i = none → exec (.sampleEvent ch) s = .next t →
    exec i s = .next u → ∃ v, exec i t = .next v ∧ exec (.sampleEvent ch) u = .next v) ∧
  (∀ (ch : Chan) (o : OpStep) (s t : State), exec (.sampleEvent ch) s = .next t →
    exec (.sampleEvent ch) (s.continueOp o) = .next (t.continueOp o))

/-- R22 with R23 and R29: in a good state software and the engine never own the same buffer, and no instruction changes a
buffer of a constructed channel that the engine owns. -/
def Obligations.EngineOwnedBuffersAreNeverWritten : Prop :=
  (∀ (ch : Chan) (b : BufId) (s : State), s.Inv → (s.chan ch).phase ≠ .unbuilt → s.softwareOwns ch b = true →
    s.engineOwns ch b = false) ∧
  (∀ (i : Instr) (ch : Chan) (b : BufId) (s t : State), s.Inv → (s.chan ch).phase ≠ .unbuilt →
    s.engineOwns ch b = true → exec i s = .next t → (t.chan ch).buf b = (s.chan ch).buf b)

/-! ### DDS primitives (42_dds_primitives) -/

/-- R170 with R172, R178: a successful write of one or more bytes to a register without side effects stores exactly those
bytes under the header's address, logs one record with the header of R91, and changes nothing else. -/
def Obligations.WriteStoresPayloadAndLogs : Prop :=
  ∀ (addr : Addr) (p : List Byte) (size : BitVec 2) (s : State), sizeClass p.length = some size →
    s.drawAt 0 = none → s.dev.link = .inOrder →
    addr ≠ s.cfg.addrPartId → addr ≠ s.cfg.addrSerial → addr ≠ s.cfg.addrDdsReset →
    ∃ t, exec (.write addr p) s = .next t ∧ t.result = .returned .unit ∧
      s.WroteRegister t addr (iwEncode 0#1 size addr) p

/-- R178, R180, R181 and U7, U9: what a successful write does at the three registers with effects of their own, with the
memory frame and the log. The part about the device's bit order is the model's reading of U9 (log 10), and the bit
`resetTaken`, which the soft reset and the DDS-reset write clear, is the model's own (log 11). -/
def Obligations.WritesWithSideEffects : Prop :=
  ∀ (p : List Byte) (size : BitVec 2) (s : State), sizeClass p.length = some size → s.cfg.Wf → s.drawAt 0 = none →
    s.dev.link = .inOrder →
    (∃ t, exec (.write s.cfg.addrPartId p) s = .next t ∧ t.result = .returned .unit ∧ t.dev = s.dev ∧
      s.LoggedWrite t (iwEncode 0#1 size s.cfg.addrPartId) p true) ∧
    ((serialFieldsOf p).softReset = true →
      ∃ t, exec (.write s.cfg.addrSerial p) s = .next t ∧ t.result = .returned .unit ∧
        t.dev = { s.dev with regs := [], resetPending := false, resetTaken := false } ∧
        s.LoggedWrite t (iwEncode 0#1 size s.cfg.addrSerial) p true) ∧
    ((serialFieldsOf p).softReset = false →
      ∃ t, exec (.write s.cfg.addrSerial p) s = .next t ∧ t.result = .returned .unit ∧
        Memory.get t.dev.regs s.cfg.addrSerial.toNat = some p ∧ s.OtherRegistersKept t s.cfg.addrSerial ∧
        t.dev = { s.dev with
          regs := t.dev.regs, link := if (serialFieldsOf p).lsbFirst then .otherOrder else .inOrder } ∧
        s.LoggedWrite t (iwEncode 0#1 size s.cfg.addrSerial) p true) ∧
    (∃ t, exec (.write s.cfg.addrDdsReset p) s = .next t ∧ t.result = .returned .unit ∧
      Memory.get t.dev.regs s.cfg.addrDdsReset.toNat = some p ∧ s.OtherRegistersKept t s.cfg.addrDdsReset ∧
      t.dev = { s.dev with
        regs := t.dev.regs, resetTaken := false, resetPending := s.dev.resetPending || decide (p = [1#8]) } ∧
      s.LoggedWrite t (iwEncode 0#1 size s.cfg.addrDdsReset) p true)

/-- R172, R182, R250: a write whose transaction fails returns `BusError(e)` with the transport's own error and logs one failed
record, whatever the device; its register is then unknown and every other as it was. A device in the other bit order
misreads the frame instead (R296, U9; log 10). -/
def Obligations.FailedWriteForgetsItsRegister : Prop :=
  ∀ (addr : Addr) (p : List Byte) (size : BitVec 2) (e : TransportError) (s : State),
    sizeClass p.length = some size → s.drawAt 0 = some e →
    ∃ t, exec (.write addr p) s = .next t ∧ t.result = .busError e ∧
      s.LoggedWrite t (iwEncode 0#1 size addr) p false ∧
      if s.dev.link = .inOrder then s.FailedRegister t addr (iwEncode 0#1 size addr) p else s.RegistersLost t

/-- R171 with R172, R179: a successful read changes nothing in the device, fills the caller's buffer with the `n` bytes it
returns and logs, and those bytes are the chip's identity, or the first `n` bytes last written. Where the register is
unknown only their number is fixed (log 14). -/
def Obligations.ReadReturnsWhatTheDeviceHolds : Prop :=
  ∀ (addr : Addr) (n : Nat) (size : BitVec 2) (s : State), sizeClass n = some size → s.drawAt 0 = none →
    s.dev.link = .inOrder →
    ∃ bytes, bytes.length = n ∧
      exec (.read addr n) s = .next { s with
        outBuf := bytes, result := .returned (.bytes bytes), busDraws := s.busDraws.tail, draws := s.draws + 1,
        dds := { s.dds with log := s.dds.log ++ [⟨iwEncode 1#1 size addr, .read, bytes, true⟩] } } ∧
      (addr = s.cfg.addrPartId → n = 2 → bytes = beBytes 2 s.dev.id.toNat) ∧
      (∀ p, ¬ (addr = s.cfg.addrPartId ∧ n = 2) → ¬ (addr = s.cfg.addrDdsReset ∧ s.dev.resetTaken = true) →
        Memory.get s.dev.regs addr.toNat = some p → n ≤ p.length → bytes = p.take n)

/-- R171, R172, R182, U5: a read whose transaction fails returns `BusError(e)` and logs one failed record, whatever the device,
and changes nothing in the device; of the caller's buffer only the length is known (log 9). That its record carries no
bytes is the model's choice (log 12). A device in the other bit order misreads the frame (R296, U9; log 10). -/
def Obligations.FailedReadLeavesTheDevice : Prop :=
  ∀ (addr : Addr) (n : Nat) (size : BitVec 2) (e : TransportError) (s : State), sizeClass n = some size →
    s.drawAt 0 = some e →
    ∃ buffer t, buffer.length = n ∧ exec (.read addr n) s = .next t ∧
      t = { s with
        outBuf := buffer, result := .busError e, busDraws := s.busDraws.tail, draws := s.draws + 1, dev := t.dev
        dds := { s.dds with log := s.dds.log ++ [⟨iwEncode 1#1 size addr, .read, [], false⟩] } } ∧
      if s.dev.link = .inOrder then t.dev = s.dev else s.RegistersLost t

/-- R98, R170: with no transport fault each write form completes, and it is the write of its bytes: same next state, one
record with the form's header. So it does on a device in the other bit order, which misreads it and then holds nothing
known (R296, U9; that such a device is one of the model's `link` values is log 10). -/
def Obligations.WriteFormsAreWrites : Prop :=
  ∀ (addr : Addr) (a b c d : Byte) (rest : List Byte) (s : State), s.drawAt 0 = none →
    (∃ t, exec (.ddsWr1 addr a) s = .next t ∧ exec (.write addr [a]) s = .next t ∧ t.result = .returned .unit ∧
      t.dds = { s.dds with log := s.dds.log ++ [⟨iwEncode 0#1 0#2 addr, .write, [a], true⟩] } ∧
      (s.dev.link = .otherOrder → s.RegistersLost t)) ∧
    (∃ t, exec (.ddsWr2 addr a b) s = .next t ∧ exec (.write addr [a, b]) s = .next t ∧
      t.result = .returned .unit ∧
      t.dds = { s.dds with log := s.dds.log ++ [⟨iwEncode 0#1 1#2 addr, .write, [a, b], true⟩] } ∧
      (s.dev.link = .otherOrder → s.RegistersLost t)) ∧
    (∃ t, exec (.ddsWr3 addr a b c) s = .next t ∧ exec (.write addr [a, b, c]) s = .next t ∧
      t.result = .returned .unit ∧
      t.dds = { s.dds with log := s.dds.log ++ [⟨iwEncode 0#1 2#2 addr, .write, [a, b, c], true⟩] } ∧
      (s.dev.link = .otherOrder → s.RegistersLost t)) ∧
    (∃ t, exec (.ddsWrs addr (a :: b :: c :: d :: rest)) s = .next t ∧
      exec (.write addr (a :: b :: c :: d :: rest)) s = .next t ∧ t.result = .returned .unit ∧
      t.dds = { s.dds with
        log := s.dds.log ++ [⟨iwEncode 0#1 3#2 addr, .write, a :: b :: c :: d :: rest, true⟩] } ∧
      (s.dev.link = .otherOrder → s.RegistersLost t))

/-- R98, R171: with no transport fault each read form completes, and it is the read of that many bytes. So it does on a
device in the other bit order, which misreads it and then holds nothing known (R296, U9; log 10). -/
def Obligations.ReadFormsAreReads : Prop :=
  ∀ (addr : Addr) (n : Nat) (s : State), s.drawAt 0 = none → 4 ≤ n →
    (∃ t, exec (.ddsRd1 addr) s = .next t ∧ exec (.read addr 1) s = .next t ∧
      t.result = .returned (.bytes t.outBuf) ∧ t.outBuf.length = 1 ∧
      t.dds = { s.dds with log := s.dds.log ++ [⟨iwEncode 1#1 0#2 addr, .read, t.outBuf, true⟩] } ∧
      (s.dev.link = .otherOrder → s.RegistersLost t)) ∧
    (∃ t, exec (.ddsRd2 addr) s = .next t ∧ exec (.read addr 2) s = .next t ∧
      t.result = .returned (.bytes t.outBuf) ∧ t.outBuf.length = 2 ∧
      t.dds = { s.dds with log := s.dds.log ++ [⟨iwEncode 1#1 1#2 addr, .read, t.outBuf, true⟩] } ∧
      (s.dev.link = .otherOrder → s.RegistersLost t)) ∧
    (∃ t, exec (.ddsRd3 addr) s = .next t ∧ exec (.read addr 3) s = .next t ∧
      t.result = .returned (.bytes t.outBuf) ∧ t.outBuf.length = 3 ∧
      t.dds = { s.dds with log := s.dds.log ++ [⟨iwEncode 1#1 2#2 addr, .read, t.outBuf, true⟩] } ∧
      (s.dev.link = .otherOrder → s.RegistersLost t)) ∧
    (∃ t, exec (.ddsRds addr n) s = .next t ∧ exec (.read addr n) s = .next t ∧
      t.result = .returned (.bytes t.outBuf) ∧ t.outBuf.length = n ∧
      t.dds = { s.dds with log := s.dds.log ++ [⟨iwEncode 1#1 3#2 addr, .read, t.outBuf, true⟩] } ∧
      (s.dev.link = .otherOrder → s.RegistersLost t))

/-! ### DDS high-level operations (43_dds_operations) -/

/-- R190: with no transport fault and the expected identity, `init` makes its three transactions in order, leaves the two
registers written and nothing else of the device changed, and sets `dds.inited`; a chip reset that the block has not seen
is made good (U11: `resetUnseen`, the model's own, log 19). The call makes the first and stands
before the second; `finishOp` makes the others with nothing between (log 7). The premise on `SERIAL_INIT_FLAGS[1]` is
the standing one of R64 point 4 and U9. The premise on `link` shuts out a device that misreads every frame (R296, U9;
that one is a clause of `InitStopsAtTheFirstFailingStep`; log 10). -/
def Obligations.InitSucceedsOnTheExpectedChip : Prop :=
  ∀ s : State, s.cfg.Wf → s.cfg.serialInit.getLsbD 1 = false → s.dev.id = 0x1982#16 → s.dev.link = .inOrder →
    s.drawAt 0 = none → s.drawAt 1 = none → s.drawAt 2 = none →
    ∃ t1 t, exec .init s = .next t1 ∧
      t1 = { s with
        dds := { s.dds with log := s.dds.log ++
          [⟨iwEncode 0#1 0#2 s.cfg.addrSerial, .write, [mirrorOf s.cfg.serialInit], true⟩] }
        ddsOp := some .initReadId, dev := t1.dev, busDraws := s.busDraws.tail, draws := s.draws + 1 } ∧
      t1.finishOp = t ∧ t.result = .returned .unit ∧
      t.dds = { inited := true, log := s.dds.log ++
        [⟨iwEncode 0#1 0#2 s.cfg.addrSerial, .write, [mirrorOf s.cfg.serialInit], true⟩,
          ⟨iwEncode 1#1 1#2 s.cfg.addrPartId, .read, [0x19#8, 0x82#8], true⟩,
          ⟨iwEncode 0#1 0#2 s.cfg.addrPower, .write, [s.cfg.powerInit], true⟩] } ∧
      Memory.get t.dev.regs s.cfg.addrSerial.toNat = some [mirrorOf s.cfg.serialInit] ∧
      Memory.get t.dev.regs s.cfg.addrPower.toNat = some [s.cfg.powerInit] ∧
      (∀ b, b ≠ s.cfg.addrSerial.toNat → b ≠ s.cfg.addrPower.toNat →
        Memory.get t.dev.regs b = Memory.get s.dev.regs b) ∧
      t.dev = { s.dev with regs := t.dev.regs, resetUnseen := false } ∧
      t = { s with dds := t.dds, ddsOp := none, dev := t.dev, busDraws := t.busDraws, draws := t.draws,
                   result := t.result }

/-- R251 with R190, R253: a chip with another identity `v` gives `IdentityError(v)`, carrying that exact value; Power-control
has not been written and `dds.inited` is as it was. The steps are those of `InitSucceedsOnTheExpectedChip` (logs 7 and
10). -/
def Obligations.InitReportsWrongIdentity : Prop :=
  ∀ s : State, s.cfg.Wf → s.cfg.serialInit.getLsbD 1 = false → s.dev.id ≠ 0x1982#16 → s.dev.link = .inOrder →
    s.drawAt 0 = none → s.drawAt 1 = none →
    ∃ t1 t, exec .init s = .next t1 ∧ t1.finishOp = t ∧ t.result = .identityError s.dev.id ∧
      t.dds = { s.dds with log := s.dds.log ++
        [⟨iwEncode 0#1 0#2 s.cfg.addrSerial, .write, [mirrorOf s.cfg.serialInit], true⟩,
          ⟨iwEncode 1#1 1#2 s.cfg.addrPartId, .read, beBytes 2 s.dev.id.toNat, true⟩] } ∧
      Memory.get t.dev.regs s.cfg.addrSerial.toNat = some [mirrorOf s.cfg.serialInit] ∧
      s.OtherRegistersKept t s.cfg.addrSerial ∧
      t = { s with dds := t.dds, ddsOp := none, dev := t.dev, busDraws := t.busDraws, draws := t.draws,
                   result := t.result }

/-- The rows of R253 about `init`, with R252 and R261 item 1: a transport failure at step 1, 2 or 3 ends it with
`BusError(e)`, also where the identity would have been wrong; `dds.inited` is as it was; later steps have not run. And
R296: on a device in the other bit order every frame of `init` is misread, so that, however it ends, no register is known
and the bit order is as it was. The steps are those of `InitSucceedsOnTheExpectedChip` (logs 7 and 10). -/
def Obligations.InitStopsAtTheFirstFailingStep : Prop :=
  (∀ (s : State) (e : TransportError), s.cfg.Wf → s.cfg.serialInit.getLsbD 1 = false → s.dev.link = .inOrder →
    (s.drawAt 0 = some e →
      ∃ t, exec .init s = .next t ∧ t.finishOp = t ∧ t.result = .busError e ∧ t.ddsOp = none ∧
        t.dds.inited = s.dds.inited ∧ t.dds.log.length = s.dds.log.length + 1 ∧
        Memory.get t.dev.regs s.cfg.addrSerial.toNat = none ∧ s.OtherRegistersKept t s.cfg.addrSerial) ∧
    (s.drawAt 0 = none → s.drawAt 1 = some e →
      ∃ t1 t, exec .init s = .next t1 ∧ t1.finishOp = t ∧ t.result = .busError e ∧ t.ddsOp = none ∧
        t.dds.inited = s.dds.inited ∧ t.dds.log.length = s.dds.log.length + 2 ∧
        Memory.get t.dev.regs s.cfg.addrSerial.toNat = some [mirrorOf s.cfg.serialInit] ∧
        s.OtherRegistersKept t s.cfg.addrSerial) ∧
    (s.drawAt 0 = none → s.drawAt 1 = none → s.dev.id = 0x1982#16 → s.drawAt 2 = some e →
      ∃ t1 t, exec .init s = .next t1 ∧ t1.finishOp = t ∧ t.result = .busError e ∧ t.ddsOp = none ∧
        t.dds.inited = s.dds.inited ∧ t.dds.log.length = s.dds.log.length + 3 ∧
        Memory.get t.dev.regs s.cfg.addrPower.toNat = none ∧
        Memory.get t.dev.regs s.cfg.addrSerial.toNat = some [mirrorOf s.cfg.serialInit] ∧
        ∀ b, b ≠ s.cfg.addrSerial.toNat → b ≠ s.cfg.addrPower.toNat →
          Memory.get t.dev.regs b = Memory.get s.dev.regs b)) ∧
  (∀ s : State, s.dev.link = .otherOrder →
    ∃ t1, exec .init s = .next t1 ∧ t1.finishOp.ddsOp = none ∧ t1.finishOp.dev.link = .otherOrder ∧
      t1.finishOp.dev.regs = [])

/-- R191 with R180, and the first row of R253: `soft_reset` clears `dds.inited` whether its write succeeds or fails, and logs
one record; nothing but the engine, the device, the draw and the result changes. A successful one makes the device forget
every register, a failed one leaves Serial-config unknown and every other register as it was. A device in the other bit
order misreads the frame (R296, U9; log 10). What it makes of the model's own fields `link` and `resetTaken`, and that a
chip reset the block has not seen makes no difference to it, is the model's choice (logs 10, 11, 19 and 21). -/
def Obligations.SoftResetForgetsConfiguration : Prop :=
  ∀ s : State, s.cfg.Wf → s.dds.inited = true →
    (s.drawAt 0 = none →
      ∃ t, exec .softReset s = .next t ∧ t.result = .returned .unit ∧ t.dds.inited = false ∧ t.dev.regs = [] ∧
        (s.setInited false).LoggedWrite t (iwEncode 0#1 0#2 s.cfg.addrSerial) [mirrorOf s.cfg.serialReset] true ∧
        if s.dev.link = .inOrder then
          t.dev = { s.dev with regs := [], resetPending := false, resetTaken := false }
        else s.RegistersLost t) ∧
    (∀ e, s.drawAt 0 = some e →
      ∃ t, exec .softReset s = .next t ∧ t.result = .busError e ∧ t.dds.inited = false ∧
        Memory.get t.dev.regs s.cfg.addrSerial.toNat = none ∧
        (s.setInited false).LoggedWrite t (iwEncode 0#1 0#2 s.cfg.addrSerial) [mirrorOf s.cfg.serialReset] false ∧
        if s.dev.link = .inOrder then
          (s.setInited false).FailedRegister t s.cfg.addrSerial (iwEncode 0#1 0#2 s.cfg.addrSerial)
            [mirrorOf s.cfg.serialReset]
        else s.RegistersLost t)

/-- R192 with R181, R290 and R282: `dds_reset` writes 1 and leaves the reset pending, `dds.inited` unchanged; the update strobe
of the caller's surroundings clears the pending bit and changes no register entry; a chip reset outside the block loses
every register and leaves the engine as it was. A device in the other bit order (R296, U9; log 10), or a chip reset
outside the block while `dds.inited` was 1 (U11; log 19), leaves the device effect of `dds_reset` open: the call still
returns and logs. Both turns are the model's form of these events (logs 1 and 19); the fields `link`, `resetTaken` and
`resetUnseen` are the model's (logs 10, 11 and 19). -/
def Obligations.DdsResetWaitsForTheStrobe : Prop :=
  (∀ s : State, s.cfg.Wf → s.dds.inited = true → s.drawAt 0 = none →
    ∃ t, exec .ddsReset s = .next t ∧ t.result = .returned .unit ∧
      s.LoggedWrite t (iwEncode 0#1 0#2 s.cfg.addrDdsReset) [1#8] true ∧
      if s.dev.TakesSetters then
        Memory.get t.dev.regs s.cfg.addrDdsReset.toNat = some [1#8] ∧ s.OtherRegistersKept t s.cfg.addrDdsReset ∧
          t.dev = { s.dev with regs := t.dev.regs, resetPending := true, resetTaken := false }
      else s.RegistersLost t) ∧
  (∀ (s : State) (turns : List Turn), s.sched = .updateStrobe :: turns →
    ∃ t, step s = .next t ∧ t.dev.resetPending = false ∧ t.dev.regs = s.dev.regs ∧
      t = { s with sched := turns, dev := t.dev }) ∧
  (∀ (s : State) (turns : List Turn), s.sched = .chipReset :: turns →
    step s = .next { s with
      sched := turns
      dev := { regs := [], resetPending := false, id := s.dev.id, link := .inOrder, resetTaken := false
               resetUnseen := s.dev.resetUnseen || s.dds.inited } })

/-- R193: with no transport fault `set_pll` writes the N-divider, then PLL control, both bytes as given. The call makes the
first transaction and stands before the second; `finishOp` makes that with nothing between (log 7). On a device in the
other bit order (R296, U9; log 10), or a chip reset outside the block while `dds.inited` was 1 (U11; log 19), the call
still sends, logs and returns, and no register is known. -/
def Obligations.SetPllWritesBothRegistersInOrder : Prop :=
  ∀ (divider pllConfig : Byte) (s : State), s.cfg.Wf → s.dds.inited = true → s.drawAt 0 = none →
    s.drawAt 1 = none →
    ∃ t1 t, exec (.setPll divider pllConfig) s = .next t1 ∧
      t1 = { s with
        dds := { s.dds with log := s.dds.log ++ [⟨iwEncode 0#1 0#2 s.cfg.addrNdiv, .write, [divider], true⟩] }
        ddsOp := some (.pllControl pllConfig), dev := t1.dev, busDraws := s.busDraws.tail, draws := s.draws + 1 } ∧
      t1.finishOp = t ∧ t.result = .returned .unit ∧
      t.dds = { s.dds with log := s.dds.log ++
        [⟨iwEncode 0#1 0#2 s.cfg.addrNdiv, .write, [divider], true⟩,
          ⟨iwEncode 0#1 0#2 s.cfg.addrPll, .write, [pllConfig], true⟩] } ∧
      t = { s with dds := t.dds, ddsOp := none, dev := t.dev, busDraws := t.busDraws, draws := t.draws,
                   result := t.result } ∧
      if s.dev.TakesSetters then
        Memory.get t1.dev.regs s.cfg.addrNdiv.toNat = some [divider] ∧ s.OtherRegistersKept t1 s.cfg.addrNdiv ∧
          Memory.get t.dev.regs s.cfg.addrNdiv.toNat = some [divider] ∧
          Memory.get t.dev.regs s.cfg.addrPll.toNat = some [pllConfig] ∧
          (∀ b, b ≠ s.cfg.addrNdiv.toNat → b ≠ s.cfg.addrPll.toNat →
            Memory.get t.dev.regs b = Memory.get s.dev.regs b) ∧
          t.dev = { s.dev with regs := t.dev.regs }
      else s.RegistersLost t1 ∧ s.RegistersLost t

/-- The rows of R253 about `set_pll`: a failure at step 1 leaves PLL control untouched, a failure at step 2 leaves the new
N-divider and an unknown PLL control; every other register is as it was. The steps are those of
`SetPllWritesBothRegistersInOrder` (log 7), and so is the device that leaves no register known (logs 10 and 19); a caller
that calls is in no other operation, so `leaveOp` changes nothing there. -/
def Obligations.SetPllFailureLeavesFirstWrite : Prop :=
  ∀ (divider pllConfig : Byte) (s : State) (e : TransportError), s.cfg.Wf → s.dds.inited = true →
    (s.drawAt 0 = some e →
      ∃ t, exec (.setPll divider pllConfig) s = .next t ∧ t.finishOp = t ∧ t.result = .busError e ∧
        t.dds.inited = true ∧
        s.leaveOp.SetterFailed t s.cfg.addrNdiv (iwEncode 0#1 0#2 s.cfg.addrNdiv) [divider]) ∧
    (s.drawAt 0 = none → s.drawAt 1 = some e →
      ∃ t1 t, exec (.setPll divider pllConfig) s = .next t1 ∧ t1.finishOp = t ∧ t.result = .busError e ∧
        t.dds = { s.dds with log := s.dds.log ++
          [⟨iwEncode 0#1 0#2 s.cfg.addrNdiv, .write, [divider], true⟩,
            ⟨iwEncode 0#1 0#2 s.cfg.addrPll, .write, [pllConfig], false⟩] } ∧
        t = { s with dds := t.dds, ddsOp := none, dev := t.dev, busDraws := t.busDraws, draws := t.draws,
                     result := t.result } ∧
        if s.dev.TakesSetters then
          Memory.get t.dev.regs s.cfg.addrNdiv.toNat = some [divider] ∧
            Memory.get t.dev.regs s.cfg.addrPll.toNat = none ∧
            (∀ b, b ≠ s.cfg.addrNdiv.toNat → b ≠ s.cfg.addrPll.toNat →
              Memory.get t.dev.regs b = Memory.get s.dev.regs b) ∧
            t.dev = { s.dev with regs := t.dev.regs }
        else s.RegistersLost t)

/-- R194, R196, R198 with the images of R103 to R105: the three word setters write their register, most significant byte
first, and nothing else. On a device in the other bit order (R296, U9; log 10), or a chip reset outside the block while
`dds.inited` was 1 (U11; log 19), they are accepted, log and return, and no register is known. -/
def Obligations.WordSettersWriteTheirImages : Prop :=
  ∀ s : State, s.cfg.Wf → s.dds.inited = true → s.drawAt 0 = none →
    (∀ w : Nat, ∃ t, exec (.setFtw w) s = .next t ∧ t.result = .returned .unit ∧
      s.SetterWrote t 0x01AB#13 0x61AB#16
        [BitVec.ofNat 8 (w / 2 ^ 40), BitVec.ofNat 8 (w / 2 ^ 32), BitVec.ofNat 8 (w / 2 ^ 24),
          BitVec.ofNat 8 (w / 2 ^ 16), BitVec.ofNat 8 (w / 2 ^ 8), BitVec.ofNat 8 w]) ∧
    (∀ p : BitVec 14, ∃ t, exec (.setPow p) s = .next t ∧ t.result = .returned .unit ∧
      s.SetterWrote t s.cfg.addrPow (iwEncode 0#1 1#2 s.cfg.addrPow)
        [BitVec.ofNat 8 (p.toNat / 256), BitVec.ofNat 8 p.toNat]) ∧
    (∀ c : BitVec 10, ∃ t, exec (.setFsc c) s = .next t ∧ t.result = .returned .unit ∧
      s.SetterWrote t s.cfg.addrFsc (iwEncode 0#1 1#2 s.cfg.addrFsc)
        [BitVec.ofNat 8 (c.toNat / 256), BitVec.ofNat 8 c.toNat])

/-- R195, R197, R199 with R202: the converting setters write the image of the converted word and return exactly that word.
Where the device leaves their effect open (U9, log 10; U11, log 19) they return and log the same. -/
def Obligations.ConvertingSettersReturnTheWordWritten : Prop :=
  ∀ s : State, s.cfg.Wf → s.dds.inited = true → s.drawAt 0 = none →
    (∀ (f clk : Rat) (w : BitVec 48), ftwOf f clk = some w →
      ∃ t, exec (.setFrequency f clk) s = .next t ∧ t.result = .returned (.ftw w) ∧
        s.SetterWrote t 0x01AB#13 0x61AB#16 (beBytes 6 w.toNat)) ∧
    (∀ (ph : Rat) (w : BitVec 14), powOf ph = some w →
      ∃ t, exec (.setPhase ph) s = .next t ∧ t.result = .returned (.pow w) ∧
        s.SetterWrote t s.cfg.addrPow (iwEncode 0#1 1#2 s.cfg.addrPow) (beBytes 2 w.toNat)) ∧
    (∀ (fs r : Rat) (w : BitVec 10), fscOf fs r = some w →
      ∃ t, exec (.setFullScaleCurrent fs r) s = .next t ∧ t.result = .returned (.fsc w) ∧
        s.SetterWrote t s.cfg.addrFsc (iwEncode 0#1 1#2 s.cfg.addrFsc) (beBytes 2 w.toNat))

/-- The first row of R253, for all but `soft_reset`: a transport failure of a one-step operation returns `BusError(e)`, logs one
failed record and keeps `dds.inited`, whatever the device; it leaves the target register unknown and every other as it
was. Where the device leaves the effect open (U9, log 10; U11, log 19) no register is known. -/
def Obligations.OneStepOperationFailureForgetsItsTarget : Prop :=
  ∀ (i : Instr) (addr : Addr) (s : State) (e : TransportError), s.dds.inited = true → s.drawAt 0 = some e →
    ((i = .ddsReset ∧ addr = s.cfg.addrDdsReset) ∨
      ((∃ w, i = .setFtw w) ∧ addr = 0x01AB#13) ∨
      ((∃ f clk w, i = .setFrequency f clk ∧ ftwOf f clk = some w) ∧ addr = 0x01AB#13) ∨
      ((∃ p, i = .setPow p) ∧ addr = s.cfg.addrPow) ∨
      ((∃ ph w, i = .setPhase ph ∧ powOf ph = some w) ∧ addr = s.cfg.addrPow) ∨
      ((∃ c, i = .setFsc c) ∧ addr = s.cfg.addrFsc) ∨
      ((∃ fs r w, i = .setFullScaleCurrent fs r ∧ fscOf fs r = some w) ∧ addr = s.cfg.addrFsc)) →
    ∃ t h p, exec i s = .next t ∧ t.result = .busError e ∧ t.dds.inited = true ∧ s.SetterFailed t addr h p

/-- R201, R291 and the conversion row of R256: a high-level operation other than `init` is refused while `dds.inited` is 0,
whatever its operands; with it at 1 a converting setter whose conversion is undefined is refused. -/
def Obligations.OperationsOutsideTheirPreconditionStop : Prop :=
  ∀ (s : State) (a b : Byte) (w : Nat) (p : BitVec 14) (c : BitVec 10) (x y : Rat),
    (s.dds.inited = false →
      exec .softReset s = .refused .notInitialised ∧ exec .ddsReset s = .refused .notInitialised ∧
      exec (.setPll a b) s = .refused .notInitialised ∧ exec (.setFtw w) s = .refused .notInitialised ∧
      exec (.setFrequency x y) s = .refused .notInitialised ∧ exec (.setPow p) s = .refused .notInitialised ∧
      exec (.setPhase x) s = .refused .notInitialised ∧ exec (.setFsc c) s = .refused .notInitialised ∧
      exec (.setFullScaleCurrent x y) s = .refused .notInitialised) ∧
    (s.dds.inited = true →
      (ftwOf x y = none → exec (.setFrequency x y) s = .refused .conversionRange) ∧
      (powOf x = none → exec (.setPhase x) s = .refused .conversionRange) ∧
      (fscOf x y = none → exec (.setFullScaleCurrent x y) s = .refused .conversionRange))

/-- The end-to-end property of R177 (test vector S12): `set_frequency` followed by a read-back of the tuning-word register
returns exactly the tuning word, most significant byte first. The premise on the device is the standing
one of R64 point 4 (log 10) and that no chip reset has gone unseen (U11; log 19). -/
def Obligations.FrequencyReadsBackExactly : Prop :=
  ∀ (f clk : Rat) (w : BitVec 48) (s : State), s.cfg.Wf → s.dds.inited = true → s.dev.TakesSetters →
    s.drawAt 0 = none → s.drawAt 1 = none → ftwOf f clk = some w →
    ∃ t, runInstrs [.setFrequency f clk, .read 0x01AB#13 6] s = .next t ∧
      t.result = .returned (.bytes t.outBuf) ∧ t.outBuf.length = 6 ∧ fromBe t.outBuf = w.toNat

/-! ### Numeric conversions (44_numeric_conversions) -/

/-- R220. -/
def Obligations.SysclkFollowsThePllFormula : Prop :=
  ∀ (refclk : Rat) (ndiv : Nat) (s : State),
    exec (.sysclk refclk false ndiv) s =
      .next { s with result := .returned (.rational (2 * refclk * ((ndiv : Rat) + 2))) } ∧
    exec (.sysclk refclk true ndiv) s =
      .next { s with result := .returned (.rational (4 * refclk * ((ndiv : Rat) + 2))) }

/-- `round` as 00_scope R9 defines it (decision D26): never further than 1/2 from its argument, a tie away from zero, and
non-decreasing. -/
def Obligations.RoundIsNearestWithTiesAwayFromZero : Prop :=
  (∀ q : Rat, -(1 / 2) ≤ (roundQ q : Rat) - q ∧ (roundQ q : Rat) - q ≤ 1 / 2) ∧
  (∀ n : Nat, roundQ ((n : Rat) + 1 / 2) = n + 1 ∧ roundQ (-(n : Rat) - 1 / 2) = -(n : Int) - 1) ∧
  (∀ p q : Rat, p ≤ q → roundQ p ≤ roundQ q)

/-- R221: `store_N` returns a value that fits, reduces a tuning word that is too large modulo `2^48`, and refuses everything
else. -/
def Obligations.StoreNFitsTruncatesOrRefuses : Prop :=
  ∀ (w : StoreWidth) (r : Int) (s : State),
    (0 ≤ r → r < 2 ^ w.bits →
      exec (.storeN w r) s = .next { s with result := .returned (.word r.toNat) }) ∧
    (w = .w48 → 2 ^ 48 ≤ r →
      exec (.storeN w r) s = .next { s with result := .returned (.word (r.toNat % 2 ^ 48)) }) ∧
    (r < 0 ∨ (w ≠ .w48 ∧ 2 ^ w.bits ≤ r) → exec (.storeN w r) s = .refused .conversionRange)

/-- R222, the literal formula: the rounded product over `2^48`, reduced modulo `2^48`; a negative result is refused. -/
def Obligations.FrequencyToFtwFollowsTheLiteralFormula : Prop :=
  ∀ (f clk : Rat) (s : State),
    (0 ≤ roundQ (f * clk / 2 ^ 48) →
      ∃ w : BitVec 48, (w.toNat : Int) = roundQ (f * clk / 2 ^ 48) % 2 ^ 48 ∧ ftwOf f clk = some w ∧
        exec (.frequencyToFtw f clk) s = .next { s with result := .returned (.ftw w) }) ∧
    (roundQ (f * clk / 2 ^ 48) < 0 →
      ftwOf f clk = none ∧ exec (.frequencyToFtw f clk) s = .refused .conversionRange)

/-- R225, R228, the literal formulas with `+ 384`: a rounded result that fits its 14 or 10 bits is the word, any other is
refused. -/
def Obligations.PhaseAndCurrentWordsFollowTheLiteralFormulas : Prop :=
  ∀ (x y : Rat) (s : State),
    (0 ≤ roundQ (x / 2 ^ 14) → roundQ (x / 2 ^ 14) < 2 ^ 14 →
      ∃ w : BitVec 14, (w.toNat : Int) = roundQ (x / 2 ^ 14) ∧ powOf x = some w ∧
        exec (.phaseToPow x) s = .next { s with result := .returned (.pow w) }) ∧
    (roundQ (x / 2 ^ 14) < 0 ∨ 2 ^ 14 ≤ roundQ (x / 2 ^ 14) →
      powOf x = none ∧ exec (.phaseToPow x) s = .refused .conversionRange) ∧
    (0 ≤ roundQ (x * y * (40 / 9) + 384) → roundQ (x * y * (40 / 9) + 384) < 2 ^ 10 →
      ∃ w : BitVec 10, (w.toNat : Int) = roundQ (x * y * (40 / 9) + 384) ∧ fscOf x y = some w ∧
        exec (.fsToFsc x y) s = .next { s with result := .returned (.fsc w) }) ∧
    (roundQ (x * y * (40 / 9) + 384) < 0 ∨ 2 ^ 10 ≤ roundQ (x * y * (40 / 9) + 384) →
      fscOf x y = none ∧ exec (.fsToFsc x y) s = .refused .conversionRange)

/-- R232: the inverse conversions return the algebraic inverses, refuse a divisor of 0, and the forward conversion of an
inverse is the word itself (for the divider: the clock of a whole divider value gives that value back). -/
def Obligations.InverseConversionsUndoTheForwardOnes : Prop :=
  (∀ (w : BitVec 48) (clk : Rat) (s : State), clk ≠ 0 →
    exec (.ftwToFrequency w clk) s =
      .next { s with result := .returned (.rational ((w.toNat : Rat) * 2 ^ 48 / clk)) } ∧
    ftwOf ((w.toNat : Rat) * 2 ^ 48 / clk) clk = some w) ∧
  (∀ (w : BitVec 14) (s : State),
    exec (.powToPhase w) s = .next { s with result := .returned (.rational ((w.toNat : Rat) * 2 ^ 14)) } ∧
    powOf ((w.toNat : Rat) * 2 ^ 14) = some w) ∧
  (∀ (w : BitVec 10) (r : Rat) (s : State), r ≠ 0 →
    exec (.fscToFs w r) s =
      .next { s with result := .returned (.rational (((w.toNat : Rat) - 384) * (9 / 40) / r)) } ∧
    fscOf (((w.toNat : Rat) - 384) * (9 / 40) / r) r = some w) ∧
  (∀ (clk refclk : Rat) (dbl : Bool) (s : State), refclk ≠ 0 →
    exec (.sysclkToNdiv clk refclk dbl) s = .next { s with
      result := .returned (.rational (clk / (refclk * (if dbl then 2 else 1) * 2) - 2)) }) ∧
  (∀ (refclk : Rat) (dbl : Bool) (ndiv : Nat), refclk ≠ 0 →
    ndivInverse (sysclkOf refclk dbl ndiv) refclk dbl = ndiv) ∧
  (∀ (w : BitVec 48) (c : BitVec 10) (clk : Rat) (dbl : Bool) (s : State),
    exec (.ftwToFrequency w 0) s = .refused .zeroDivisor ∧ exec (.fscToFs c 0) s = .refused .zeroDivisor ∧
    exec (.sysclkToNdiv clk 0 dbl) s = .refused .zeroDivisor)

/-! ### Decoding, the step, the timer, the invariant -/

/-- Every well-formed instruction that a caller can issue is what its own request decodes to: no bit of the encoding of a
form and no operand of a call is dropped. -/
def Obligations.DecodeOfEncodeIsTheInstruction : Prop :=
  ∀ i : Instr, i.wf = true → i.agent = .sw → decode (encode i) = .ok i

/-- Each request has one meaning: what decodes to an instruction is that instruction's own request, so two different
requests never stand for the same instruction. -/
def Obligations.EncodeOfDecodeIsTheRequest : Prop :=
  ∀ (r : Request) (i : Instr), decode r = .ok i → encode i = r

/-- A sanity check: frames written out from R90, R95, R96 and R98 by hand decode to the forms they stand for. -/
def Obligations.KnownFramesDecode : Prop :=
  decode (.frame [0x00#8, 0x10#8] (.w [0xC0#8])) = .ok (.ddsWr1 0x0010#13 0xC0#8) ∧
  decode (.frame [0x21#8, 0xAD#8] (.w [0x12#8, 0x34#8])) = .ok (.ddsWr2 0x01AD#13 0x12#8 0x34#8) ∧
  decode (.frame [0x61#8, 0xAB#8] (.w [0#8, 0#8, 0#8, 0#8, 0#8, 4#8])) =
    .ok (.ddsWrs 0x01AB#13 [0#8, 0#8, 0#8, 0#8, 0#8, 4#8]) ∧
  decode (.frame [0xA0#8, 0x03#8] (.r 2)) = .ok (.ddsRd2 0x0003#13) ∧
  decode (.frame [0xE1#8, 0xAB#8] (.r 6)) = .ok (.ddsRds 0x01AB#13 6)

/-- A caller's turn between operations runs the instruction its next request decodes to, on the state with that request and
that turn taken (the request and turn lists are the model's own, log 1). Inside a DDS operation of several transactions
it makes the next of them and takes no request (20_memory R74, R75; log 7). In the hold of `acquire_buffer` it polls once
more, so that a completion lifts the hold (41_waveform_channel R145, R146; log 8). -/
def Obligations.StepRunsTheDecodedInstruction : Prop :=
  (∀ (s : State) (r : Request) (i : Instr) (calls : List Request) (turns : List Turn),
    s.sched = .sw :: turns → s.swHold = none → s.ddsOp = none → s.calls = r :: calls → decode r = .ok i →
    step s = exec i { s with sched := turns, calls := calls }) ∧
  (∀ (s : State) (o : OpStep) (turns : List Turn), s.sched = .sw :: turns → s.swHold = none → s.ddsOp = some o →
    step s = .next ({ s with sched := turns }.continueOp o)) ∧
  (∀ (s : State) (ch : Chan) (turns : List Turn), s.sched = .sw :: turns → s.swHold = some ch →
    step s = exec (.acquireBuffer ch) { s with sched := turns })

/-- 10_state R40: a counter tick advances the counter by one, wraps it at `TIMER_PERIOD`, and runs the sample event of the
channel whose offset it has reached. That the timer is this counter, that its new value decides the event, and that a
value out of range wraps, is the model's choice (log 6); that a tick is a turn of a list is log 1's. -/
def Obligations.TickRunsTheDueSampleEvent : Prop :=
  ∀ (s : State) (turns : List Turn) (cnt : Nat), s.sched = .tick :: turns →
    cnt = (if s.tmrCnt + 1 < s.cfg.timerPeriod then s.tmrCnt + 1 else 0) → s.cfg.tickOffset0 ≠ s.cfg.tickOffset1 →
    (cnt = s.cfg.tickOffset0 → step s = exec (.sampleEvent .ch0) { s with sched := turns, tmrCnt := cnt }) ∧
    (cnt = s.cfg.tickOffset1 → step s = exec (.sampleEvent .ch1) { s with sched := turns, tmrCnt := cnt }) ∧
    (cnt ≠ s.cfg.tickOffset0 → cnt ≠ s.cfg.tickOffset1 →
      step s = .next { s with sched := turns, tmrCnt := cnt })

/-- R258 point 2: in each timer period every channel gets exactly one event, the channel with the smaller offset first. -/
def Obligations.EachPeriodHasOneEventPerChannel : Prop :=
  ∀ cfg : Params, cfg.Wf →
    eventsIn cfg cfg.timerPeriod (cfg.timerPeriod - 1) =
      if cfg.tickOffset0 < cfg.tickOffset1 then [.ch0, .ch1] else [.ch1, .ch0]

/-- The invariant of the machine holds right after a system reset. -/
def Obligations.ResetIsAGoodState : Prop := State.reset.Inv

/-- Every step from a good state that gives a next state gives a good state: the role invariant of R23, buffers of `BATCH`
codes (R21), an index in range (R24), the reference that follows the filling role (R29), the canonical register space, a
caller in at most one operation (R293). And a caller is inside a `set_pll` only while `dds.inited` is
1 (R201; its place there is the model's field `ddsOp`, log 7). -/
def Obligations.EveryStepKeepsAGoodState : Prop :=
  ∀ s t : State, s.Inv → step s = .next t → t.Inv

/-- No step from a good state faults: every access to a sample buffer names an element that exists (R21, R66). -/
def Obligations.GoodStatesNeverFault : Prop :=
  ∀ (s : State) (r : Fault), s.Inv → step s ≠ .fault r
end

