-- ==== Sys2Proof/Laws/State.lean ====
section
/-! SUPPORT. One lemma per field per update of State and Channel, so that no proof unfolds an update. -/

namespace Sys2Proof.Machine

/-! ### `State.chan` and `State.setChan` -/

@[simp] theorem chan_ch0 (s : State) : s.chan .ch0 = s.ch0 := rfl
@[simp] theorem chan_ch1 (s : State) : s.chan .ch1 = s.ch1 := rfl
@[simp] theorem setChan_ch0 (s : State) (c : Channel) : s.setChan .ch0 c = { s with ch0 := c } := rfl
@[simp] theorem setChan_ch1 (s : State) (c : Channel) : s.setChan .ch1 c = { s with ch1 := c } := rfl

theorem chan_setChan_same (s : State) (ch : Chan) (c : Channel) : (s.setChan ch c).chan ch = c := by
  cases ch <;> rfl

theorem chan_setChan_other (s : State) (ch : Chan) (c : Channel) :
    (s.setChan ch c).chan ch.other = s.chan ch.other := by
  cases ch <;> rfl

theorem setChan_setChan_same (s : State) (ch : Chan) (c d : Channel) :
    (s.setChan ch c).setChan ch d = s.setChan ch d := by
  cases ch <;> rfl

theorem setChan_chan_same (s : State) (ch : Chan) : s.setChan ch (s.chan ch) = s := by
  cases ch <;> rfl

theorem setChan_comm (s : State) (ch : Chan) (c d : Channel) :
    (s.setChan ch c).setChan ch.other d = (s.setChan ch.other d).setChan ch c := by
  cases ch <;> rfl

theorem setChan_cfg (s : State) (ch : Chan) (c : Channel) : (s.setChan ch c).cfg = s.cfg := by cases ch <;> rfl
theorem setChan_dds (s : State) (ch : Chan) (c : Channel) : (s.setChan ch c).dds = s.dds := by cases ch <;> rfl
theorem setChan_dev (s : State) (ch : Chan) (c : Channel) : (s.setChan ch c).dev = s.dev := by cases ch <;> rfl
theorem setChan_tmrCnt (s : State) (ch : Chan) (c : Channel) : (s.setChan ch c).tmrCnt = s.tmrCnt := by
  cases ch <;> rfl
theorem setChan_swHold (s : State) (ch : Chan) (c : Channel) : (s.setChan ch c).swHold = s.swHold := by
  cases ch <;> rfl
theorem setChan_ddsOp (s : State) (ch : Chan) (c : Channel) : (s.setChan ch c).ddsOp = s.ddsOp := by cases ch <;> rfl
theorem setChan_result (s : State) (ch : Chan) (c : Channel) : (s.setChan ch c).result = s.result := by
  cases ch <;> rfl

/-! ### What an operation hands its caller -/

@[simp] theorem returnValue_eq (s : State) (v : Value) : s.returnValue v = { s with result := .returned v } := rfl
@[simp] theorem returnOk_eq (s : State) : returnOk s = { s with result := .returned .unit } := rfl
@[simp] theorem raiseBusError_eq (s : State) (e : TransportError) :
    s.raiseBusError e = { s with result := .busError e } := rfl
@[simp] theorem raiseIdentityError_eq (s : State) (v : BitVec 16) :
    s.raiseIdentityError v = { s with result := .identityError v } := rfl
@[simp] theorem setInited_eq (s : State) (b : Bool) :
    s.setInited b = { s with dds := { s.dds with inited := b } } := rfl
@[simp] theorem initDone_eq (s : State) :
    s.initDone = { s with dds := { s.dds with inited := true }, dev := { s.dev with resetUnseen := false } } := rfl
@[simp] theorem logTx_eq (s : State) (r : TxRecord) :
    s.logTx r = { s with dds := { s.dds with log := s.dds.log ++ [r] } } := rfl
@[simp] theorem takeDraw_eq (s : State) :
    s.takeDraw = { s with busDraws := s.busDraws.tail, draws := s.draws + 1 } := rfl

@[simp] theorem enterOp_eq (s : State) (o : OpStep) : s.enterOp o = { s with ddsOp := some o } := rfl
@[simp] theorem leaveOp_eq (s : State) : s.leaveOp = { s with ddsOp := none } := rfl

/-! ### Channel flags -/

@[simp] theorem setComplete_eq (c : Channel) : c.setComplete = { c with tc := true } := rfl
@[simp] theorem clearComplete_eq (c : Channel) : c.clearComplete = { c with tc := false } := rfl
@[simp] theorem enterRunning_eq (c : Channel) : c.enterRunning = { c with phase := .running } := rfl
@[simp] theorem emit_eq (c : Channel) (v : Code) : c.emit v = { c with out := c.out ++ [v] } := rfl
@[simp] theorem rotate_eq (c : Channel) :
    c.rotate = { c with tc := false, filling := c.armed, armed := c.filling, swRef := some c.armed } := rfl
@[simp] theorem complete_eq (c : Channel) :
    c.complete = { c with tc := true, idx := 0, active := c.armed, armed := c.active } := rfl
@[simp] theorem built_iff (c : Channel) : c.built = true ↔ c.phase ≠ .unbuilt := by simp [Channel.built]
@[simp] theorem built_false_iff (c : Channel) : c.built = false ↔ c.phase = .unbuilt := by simp [Channel.built]
@[simp] theorem isRunning_iff (c : Channel) : c.isRunning = true ↔ c.phase = .running := by
  simp [Channel.isRunning]

end Sys2Proof.Machine
end

