-- ==== Sys2Proof/Laws/Encoding.lean ====
section
/-! SUPPORT. The Instruction Word's fields survive encoding and its two bytes. -/

namespace Sys2Proof

theorem iwDecode_iwEncode (rw : BitVec 1) (size : BitVec 2) (addr : Addr) :
    iwDecode (iwEncode rw size addr) = ⟨rw, size, addr⟩ := by
  simp only [iwDecode, iwEncode, Header.mk.injEq]
  refine ⟨?_, ?_, ?_⟩
  · ext i hi
    obtain rfl : i = 0 := by omega
    simp
  · ext i hi
    have : i = 0 ∨ i = 1 := by omega
    rcases this with rfl | rfl <;> simp
  · ext i hi
    have h1 : i < 16 := by omega
    have h2 : i < 15 := by omega
    simp [h1, h2, hi]

theorem headerOfBytes_headerBytes (h : BitVec 16) : headerOfBytes (headerBytes h) = h := by
  apply BitVec.eq_of_toNat_eq
  have := h.isLt
  simp [headerOfBytes, headerBytes, beBytes, fromBe]
  omega

theorem length_beBytes (n v : Nat) : (beBytes n v).length = n := by
  induction n with
  | zero => rfl
  | succ n ih => simp [beBytes, ih]

theorem headerBytes_length (h : BitVec 16) : (headerBytes h).length = 2 := length_beBytes _ _

end Sys2Proof
end

