-- ==== Sys2Proof/Laws/Memory.lean ====
section
/-! SUPPORT. The register space keeps its canonical form under every operation, and the read-after-write laws of both
address spaces. -/

namespace Sys2Proof.Machine

/-! ### The register space -/

/-- What the canonical form says, as a proposition over all entries: bounded and strictly rising. -/
theorem memory_wf_iff (m : Memory) :
    Memory.wf m = true ↔ (∀ e ∈ m, e.1 < 2 ^ 13) ∧ m.Pairwise (fun e f => e.1 < f.1) := by
  induction m with
  | nil => simp [Memory.wf]
  | cons e m ih =>
    cases m with
    | nil => simp [Memory.wf]
    | cons f m =>
      rw [Memory.wf, Bool.and_eq_true, decide_eq_true_iff, ih]
      simp only [List.mem_cons, List.pairwise_cons, forall_eq_or_imp]
      constructor
      · rintro ⟨hef, ⟨hf, hm⟩, hfm, hp⟩
        exact ⟨⟨by omega, hf, hm⟩, ⟨hef, fun a ha => by have := hfm a ha; omega⟩, hfm, hp⟩
      · rintro ⟨⟨_, hf, hm⟩, ⟨hef, _⟩, hfm, hp⟩
        exact ⟨hef, ⟨hf, hm⟩, hfm, hp⟩

theorem memory_get_set_same (m : Memory) (a : Nat) (p : List Byte) : Memory.get (Memory.set m a p) a = some p := by
  induction m with
  | nil => simp [Memory.set, Memory.get]
  | cons e m ih =>
    unfold Memory.set
    split
    · simp [Memory.get]
    · split
      · simp [Memory.get]
      · simp [Memory.get, *]

theorem memory_get_set_other (m : Memory) (a b : Nat) (p : List Byte) (h : b ≠ a) :
    Memory.get (Memory.set m a p) b = Memory.get m b := by
  induction m with
  | nil => simp [Memory.set, Memory.get, h.symm]
  | cons e m ih =>
    unfold Memory.set
    split
    · simp [Memory.get, h.symm]
    · split
      · rename_i _ he; simp [Memory.get, h.symm, he]
      · simp [Memory.get, ih]

theorem memory_get_forget_same (m : Memory) (a : Nat) : Memory.get (Memory.forget m a) a = none := by
  induction m with
  | nil => rfl
  | cons e m ih =>
    by_cases he : e.1 = a
    · simpa [Memory.forget, he] using ih
    · simpa [Memory.forget, Memory.get, he] using ih

theorem memory_get_forget_other (m : Memory) (a b : Nat) (h : b ≠ a) :
    Memory.get (Memory.forget m a) b = Memory.get m b := by
  induction m with
  | nil => rfl
  | cons e m ih =>
    by_cases he : e.1 = a
    · have hb : ¬ e.1 = b := fun hb => h (hb.symm.trans he)
      simpa [Memory.forget, Memory.get, he, hb, h.symm] using ih
    · simp only [Memory.forget, List.filter_cons, he, ne_eq, not_false_eq_true, decide_true, if_true, Memory.get]
      rw [← ih]; rfl

theorem memory_mem_set (m : Memory) (a : Nat) (p : List Byte) (e : Nat × List Byte) (h : e ∈ Memory.set m a p) :
    e = (a, p) ∨ e ∈ m := by
  induction m with
  | nil => simpa [Memory.set] using h
  | cons f m ih =>
    unfold Memory.set at h
    split at h
    · simpa using h
    · split at h
      · rcases List.mem_cons.1 h with h | h
        · exact .inl h
        · exact .inr (List.mem_cons_of_mem _ h)
      · rcases List.mem_cons.1 h with h | h
        · exact .inr (h ▸ List.mem_cons_self)
        · exact (ih h).imp id (List.mem_cons_of_mem _)

/-- `Memory.set` keeps the canonical form. -/
theorem memory_wf_set (m : Memory) (a : Nat) (p : List Byte) (ha : a < 2 ^ 13) (hm : Memory.wf m = true) :
    Memory.wf (Memory.set m a p) = true := by
  rw [memory_wf_iff] at hm ⊢
  refine ⟨fun e he => ?_, ?_⟩
  · rcases memory_mem_set m a p e he with rfl | he
    · exact ha
    · exact hm.1 e he
  · have hp := hm.2
    clear hm
    induction m with
    | nil => simp [Memory.set]
    | cons f m ih =>
      rw [List.pairwise_cons] at hp
      unfold Memory.set
      split
      · rename_i hlt
        refine List.pairwise_cons.2 ⟨fun e he => ?_, List.pairwise_cons.2 hp⟩
        rcases List.mem_cons.1 he with rfl | he
        · exact hlt
        · have := hp.1 e he; simp only; omega
      · split
        · rename_i _ heq
          exact List.pairwise_cons.2 ⟨fun e he => by have := hp.1 e he; simp only; omega, hp.2⟩
        · refine List.pairwise_cons.2 ⟨fun e he => ?_, ih hp.2⟩
          rcases memory_mem_set m a p e he with rfl | he
          · simp only; omega
          · exact hp.1 e he

/-- `Memory.forget` keeps the canonical form. -/
theorem memory_wf_forget (m : Memory) (a : Nat) (hm : Memory.wf m = true) : Memory.wf (Memory.forget m a) = true := by
  rw [memory_wf_iff] at hm ⊢
  exact ⟨fun e he => hm.1 e (List.mem_of_mem_filter he), hm.2.filter _⟩

/-- The register space at reset has the canonical form. -/
theorem memory_wf_reset : Memory.wf State.reset.dev.regs = true := rfl

/-! ### The sample buffers -/

theorem buf_setBuf_same (c : Channel) (b : BufId) (l : List Code) : (c.setBuf b l).buf b = l := by cases b <;> rfl

theorem buf_setBuf_other (c : Channel) (b d : BufId) (l : List Code) (h : d ≠ b) : (c.setBuf b l).buf d = c.buf d := by
  cases b <;> cases d <;> first | rfl | exact absurd rfl h

/-- `BufWrite` answers exactly where the element exists. -/
theorem bufWrite_eq_some_iff (c c' : Channel) (b : BufId) (i : Nat) (v : Code) :
    c.bufWrite b i v = some c' ↔ i < (c.buf b).length ∧ c' = c.setBuf b ((c.buf b).set i v) := by
  unfold Channel.bufWrite
  split <;> simp_all [eq_comm]

theorem bufRead_bufWrite_same (c c' : Channel) (b : BufId) (i : Nat) (v : Code) (h : c.bufWrite b i v = some c') :
    c'.bufRead b i = some v := by
  obtain ⟨hi, rfl⟩ := (bufWrite_eq_some_iff c c' b i v).1 h
  simp [Channel.bufRead, buf_setBuf_same, hi]

theorem bufRead_bufWrite_other (c c' : Channel) (b d : BufId) (i j : Nat) (v : Code)
    (h : c.bufWrite b i v = some c') (hne : d ≠ b ∨ j ≠ i) : c'.bufRead d j = c.bufRead d j := by
  obtain ⟨hi, rfl⟩ := (bufWrite_eq_some_iff c c' b i v).1 h
  by_cases hd : d = b
  · subst hd
    have hj : i ≠ j := (hne.resolve_left (fun hh => hh rfl)).symm
    simp [Channel.bufRead, buf_setBuf_same, hj]
  · simp [Channel.bufRead, buf_setBuf_other _ _ _ _ hd]

end Sys2Proof.Machine
end

