-- ==== Sys2Proof/Laws/Ops.lean ====
section
/-! SUPPORT. What each shared operation can do, said once: the beat, the bus transaction, the steps of a DDS operation,
the device. -/

namespace Sys2Proof.Machine

/-! ### The beat (41_waveform_channel R150) -/

/-- A beat that answers moved element `idx` of the active buffer, and either stepped the index or completed. -/
theorem beat_eq_some_iff (batch : Nat) (c c' : Channel) :
    c.beat batch = some c' ↔ ∃ v, c.bufRead c.active c.idx = some v ∧
      ((c.idx + 1 < batch ∧ c' = { c with out := c.out ++ [v], idx := c.idx + 1 }) ∨
       (¬ c.idx + 1 < batch ∧
        c' = { c with out := c.out ++ [v], tc := true, idx := 0, active := c.armed, armed := c.active })) := by
  unfold Channel.beat
  cases c.bufRead c.active c.idx with
  | none => simp
  | some v =>
    by_cases h : c.idx + 1 < batch <;> simp [h, eq_comm]

/-- A beat answers exactly where the element exists. -/
theorem beat_isSome (batch : Nat) (c : Channel) : (c.beat batch).isSome = decide (c.idx < (c.buf c.active).length) := by
  unfold Channel.beat Channel.bufRead
  by_cases h : c.idx < (c.buf c.active).length
  · by_cases h2 : c.idx + 1 < batch <;> simp [h, h2]
  · simp [h]

/-! ### Draws -/

theorem drawAt_takeDraw (s : State) (k : Nat) : s.takeDraw.drawAt k = s.drawAt (k + 1) := by
  simp only [State.drawAt, takeDraw_eq, List.getElem?_tail, Nat.add_assoc, Nat.add_comm 1 k]

/-! ### The bus transaction (42_dds_primitives R172) -/

/-- What a transaction leaves alone, whatever its outcome: everything but the device, the draws and one more record. -/
theorem busTransaction_frame (header : List Byte) (part : BusPart) (s : State) :
    ∃ dev r, (busTransaction header part s).2 =
      { s with dev := dev, busDraws := s.busDraws.tail, draws := s.draws + 1,
               dds := { s.dds with log := s.dds.log ++ [r] } } := by
  unfold busTransaction
  cases part <;> cases s.drawAt 0 <;> exact ⟨_, _, rfl⟩

theorem busTransaction_write_ok (h : BitVec 16) (p : List Byte) (s : State) (hd : s.drawAt 0 = none)
    (hu : s.dev.understands = true) :
    busTransaction (headerBytes h) (.w p) s =
      (.ok [], { s with dev := s.dev.write s.cfg (iwDecode h).addr p, busDraws := s.busDraws.tail,
                        draws := s.draws + 1,
                        dds := { s.dds with log := s.dds.log ++ [⟨h, .write, p, true⟩] } }) := by
  simp [busTransaction, headerOfBytes_headerBytes, hd, hu]

theorem busTransaction_write_error (h : BitVec 16) (p : List Byte) (s : State) (e : TransportError)
    (hd : s.drawAt 0 = some e) (hu : s.dev.understands = true) :
    busTransaction (headerBytes h) (.w p) s =
      (.error e, { s with dev := s.dev.writeFailed s.cfg (iwDecode h).addr p, busDraws := s.busDraws.tail,
                          draws := s.draws + 1,
                          dds := { s.dds with log := s.dds.log ++ [⟨h, .write, p, false⟩] } }) := by
  simp [busTransaction, headerOfBytes_headerBytes, hd, hu]

theorem busTransaction_read_ok (h : BitVec 16) (n : Nat) (s : State) (hd : s.drawAt 0 = none)
    (hu : s.dev.understands = true) :
    busTransaction (headerBytes h) (.r n) s =
      (.ok (s.dev.read s.cfg (iwDecode h).addr n s.draws),
        { s with busDraws := s.busDraws.tail, draws := s.draws + 1,
                 dds := { s.dds with
                   log := s.dds.log ++ [⟨h, .read, s.dev.read s.cfg (iwDecode h).addr n s.draws, true⟩] } }) := by
  simp [busTransaction, headerOfBytes_headerBytes, hd, hu]

theorem busTransaction_read_error (h : BitVec 16) (n : Nat) (s : State) (e : TransportError)
    (hd : s.drawAt 0 = some e) (hu : s.dev.understands = true) :
    busTransaction (headerBytes h) (.r n) s =
      (.error e, { s with busDraws := s.busDraws.tail, draws := s.draws + 1,
                          dds := { s.dds with log := s.dds.log ++ [⟨h, .read, [], false⟩] } }) := by
  simp [busTransaction, headerOfBytes_headerBytes, hd, hu]

/-- A transaction reads and writes no channel, so that a channel update before it or after it comes to the same (20_memory
R75). -/
theorem busTransaction_setChan (header : List Byte) (part : BusPart) (s : State) (ch : Chan) (c : Channel) :
    busTransaction header part (s.setChan ch c) =
      ((busTransaction header part s).1, (busTransaction header part s).2.setChan ch c) := by
  unfold busTransaction
  cases ch <;> cases part <;> simp only [setChan_ch0, setChan_ch1, State.drawAt] <;> split <;> rfl

/-! ### Steps of an operation (43_dds_operations R200, 60_exceptions R252) -/

/-- A write step whose transaction succeeds goes on with the next step, from the state the transaction leaves. -/
theorem writeStep_ok (h : BitVec 16) (p : List Byte) (next : State → State) (s : State) (hd : s.drawAt 0 = none)
    (hu : s.dev.understands = true) :
    writeStep h p next s =
      next { s with dev := s.dev.write s.cfg (iwDecode h).addr p, busDraws := s.busDraws.tail,
                    draws := s.draws + 1,
                    dds := { s.dds with log := s.dds.log ++ [⟨h, .write, p, true⟩] } } := by
  simp [writeStep, busTransaction_write_ok h p s hd hu]

/-- A write step whose transaction fails ends the operation with `BusError`. -/
theorem writeStep_error (h : BitVec 16) (p : List Byte) (next : State → State) (s : State) (e : TransportError)
    (hd : s.drawAt 0 = some e) (hu : s.dev.understands = true) :
    writeStep h p next s =
      { s with dev := s.dev.writeFailed s.cfg (iwDecode h).addr p, busDraws := s.busDraws.tail,
               draws := s.draws + 1, result := .busError e,
               dds := { s.dds with log := s.dds.log ++ [⟨h, .write, p, false⟩] } } := by
  simp [writeStep, busTransaction_write_error h p s e hd hu]

/-- A read step whose transaction succeeds goes on with the bytes the device sent. -/
theorem readStep_ok (h : BitVec 16) (n : Nat) (next : List Byte → State → State) (s : State)
    (hd : s.drawAt 0 = none) (hu : s.dev.understands = true) :
    readStep h n next s =
      next (s.dev.read s.cfg (iwDecode h).addr n s.draws)
        { s with busDraws := s.busDraws.tail, draws := s.draws + 1,
                 dds := { s.dds with
                   log := s.dds.log ++ [⟨h, .read, s.dev.read s.cfg (iwDecode h).addr n s.draws, true⟩] } } := by
  simp [readStep, busTransaction_read_ok h n s hd hu]

/-- A read step whose transaction fails ends the operation with `BusError`. -/
theorem readStep_error (h : BitVec 16) (n : Nat) (next : List Byte → State → State) (s : State)
    (e : TransportError) (hd : s.drawAt 0 = some e)
    (hu : s.dev.understands = true) :
    readStep h n next s =
      { s with busDraws := s.busDraws.tail, draws := s.draws + 1, result := .busError e,
               dds := { s.dds with log := s.dds.log ++ [⟨h, .read, [], false⟩] } } := by
  simp [readStep, busTransaction_read_error h n s e hd hu]

/-- What a write step can do, whatever happens on the bus: the transaction's state with a `BusError`, or the next step
from it. -/
theorem writeStep_cases (h : BitVec 16) (p : List Byte) (next : State → State) (s : State) :
    (∃ e, writeStep h p next s = (busTransaction (headerBytes h) (.w p) s).2.raiseBusError e) ∨
      writeStep h p next s = next (busTransaction (headerBytes h) (.w p) s).2 := by
  unfold writeStep
  match hb : busTransaction (headerBytes h) (.w p) s with
  | (.error e, s') => exact .inl ⟨e, rfl⟩
  | (.ok _, s') => exact .inr rfl

/-- What a read step can do, whatever happens on the bus. -/
theorem readStep_cases (h : BitVec 16) (n : Nat) (next : List Byte → State → State) (s : State) :
    (∃ e, readStep h n next s = (busTransaction (headerBytes h) (.r n) s).2.raiseBusError e) ∨
      ∃ bytes, readStep h n next s = next bytes (busTransaction (headerBytes h) (.r n) s).2 := by
  unfold readStep
  match hb : busTransaction (headerBytes h) (.r n) s with
  | (.error e, s') => exact .inl ⟨e, rfl⟩
  | (.ok bytes, s') => exact .inr ⟨bytes, rfl⟩

/-- A setter's step on a chip that has seen no reset behind the block is a plain write step. -/
theorem setterStep_of_seen (h : BitVec 16) (p : List Byte) (next : State → State) (s : State)
    (hr : s.dev.resetUnseen = false) : setterStep h p next s = writeStep h p next s := by
  simp [setterStep, hr]

/-- On a chip that was reset behind the block only the device differs: its effect is anything (U11). -/
theorem setterStep_of_unseen (h : BitVec 16) (p : List Byte) (next : State → State) (s : State)
    (hr : s.dev.resetUnseen = true) :
    setterStep h p next s = { writeStep h p next s with dev := s.dev.misread s.draws } := by
  simp [setterStep, hr]

/-- What a write step leaves alone where its next step only touches the engine, its place in an operation, the device and
what the caller is handed. -/
theorem writeStep_frame (h : BitVec 16) (p : List Byte) (next : State → State) (s : State)
    (hn : ∀ u : State, ∃ dds op dev r, next u = { u with dds := dds, ddsOp := op, dev := dev, result := r }) :
    ∃ dds op dev r, writeStep h p next s =
      { s with dds := dds, ddsOp := op, dev := dev, result := r, busDraws := s.busDraws.tail, draws := s.draws + 1 } := by
  obtain ⟨d, l, hb⟩ := busTransaction_frame (headerBytes h) (.w p) s
  obtain ⟨x, he⟩ | he := writeStep_cases h p next s
  · rw [he, hb]; exact ⟨_, _, _, _, rfl⟩
  · obtain ⟨_, _, _, _, hu⟩ := hn (busTransaction (headerBytes h) (.w p) s).2
    rw [he, hu, hb]; exact ⟨_, _, _, _, rfl⟩

theorem setterStep_frame (h : BitVec 16) (p : List Byte) (next : State → State) (s : State)
    (hn : ∀ u : State, ∃ dds op dev r, next u = { u with dds := dds, ddsOp := op, dev := dev, result := r }) :
    ∃ dds op dev r, setterStep h p next s =
      { s with dds := dds, ddsOp := op, dev := dev, result := r, busDraws := s.busDraws.tail, draws := s.draws + 1 } := by
  obtain ⟨_, _, _, _, hw⟩ := writeStep_frame h p next s hn
  unfold setterStep
  split <;> rw [hw] <;> exact ⟨_, _, _, _, rfl⟩

theorem readStep_frame (h : BitVec 16) (n : Nat) (next : List Byte → State → State) (s : State)
    (hn : ∀ bytes (u : State), ∃ dds op dev r, next bytes u = { u with dds := dds, ddsOp := op, dev := dev, result := r }) :
    ∃ dds op dev r, readStep h n next s =
      { s with dds := dds, ddsOp := op, dev := dev, result := r, busDraws := s.busDraws.tail, draws := s.draws + 1 } := by
  obtain ⟨d, l, hb⟩ := busTransaction_frame (headerBytes h) (.r n) s
  obtain ⟨x, he⟩ | ⟨bytes, he⟩ := readStep_cases h n next s
  · rw [he, hb]; exact ⟨_, _, _, _, rfl⟩
  · obtain ⟨_, _, _, _, hu⟩ := hn bytes (busTransaction (headerBytes h) (.r n) s).2
    rw [he, hu, hb]; exact ⟨_, _, _, _, rfl⟩

/-- What a later transaction of a DDS operation leaves alone: everything but the engine, its place in the operation, the
device, the draw it used up and what the caller is handed. -/
theorem continueOp_frame (s : State) (o : OpStep) :
    ∃ dds op dev r, s.continueOp o =
      { s with dds := dds, ddsOp := op, dev := dev, result := r, busDraws := s.busDraws.tail, draws := s.draws + 1 } := by
  cases o with
  | initReadId =>
    refine readStep_frame _ _ _ s.leaveOp fun bytes u => ?_
    split <;> exact ⟨_, _, _, _, rfl⟩
  | initPower => exact writeStep_frame _ _ _ s.leaveOp fun u => ⟨_, _, _, _, rfl⟩
  | pllControl c => exact setterStep_frame _ _ _ s.leaveOp fun u => ⟨_, _, _, _, rfl⟩

/-! ### The device (42_dds_primitives R177 to R182) -/

/-- A device in the block's bit order reads every frame as the block means it. -/
theorem understands_of_order (d : Device) (h : d.link = .inOrder) : d.understands = true := by
  simp [Device.understands, h]

theorem resumeOp_of_none (s : State) (h : s.ddsOp = none) : s.resumeOp = s := by
  simp [State.resumeOp, h]

theorem resumeOp_of_some (s : State) (o : OpStep) (h : s.ddsOp = some o) : s.resumeOp = s.continueOp o := by
  simp [State.resumeOp, h]

/-- An operation that has ended stays as it ended. -/
theorem finishOp_of_none (s : State) (h : s.ddsOp = none) : s.finishOp = s := by
  simp [State.finishOp, resumeOp_of_none s h]

/-- An operation before a further transaction makes it and then the last one, if there is one. -/
theorem finishOp_of_some (s : State) (o : OpStep) (h : s.ddsOp = some o) : s.finishOp = (s.continueOp o).resumeOp := by
  simp [State.finishOp, resumeOp_of_some s o h]

/-- What a frame that the device misreads leaves: no register known, and its pending bit a free value; the transaction itself
ends and is logged as ever (70_reset_and_hazards R296, 93_implementation_defined U9). -/
theorem busTransaction_misread (header : List Byte) (part : BusPart) (s : State) (hu : s.dev.understands = false) :
    (busTransaction header part s).2.dev = s.dev.misread s.draws := by
  unfold busTransaction
  cases part <;> cases s.drawAt 0 <;> simp [hu]

/-- A write step on a device that misreads the frame goes on, or fails, as on any other: only the device differs. -/
theorem writeStep_misread_ok (h : BitVec 16) (p : List Byte) (next : State → State) (s : State)
    (hd : s.drawAt 0 = none) (hu : s.dev.understands = false) :
    writeStep h p next s =
      next { s with dev := s.dev.misread s.draws, busDraws := s.busDraws.tail, draws := s.draws + 1,
                    dds := { s.dds with log := s.dds.log ++ [⟨h, .write, p, true⟩] } } := by
  simp [writeStep, busTransaction, headerOfBytes_headerBytes, hd, hu]

theorem writeStep_misread_error (h : BitVec 16) (p : List Byte) (next : State → State) (s : State) (e : TransportError)
    (hd : s.drawAt 0 = some e) (hu : s.dev.understands = false) :
    writeStep h p next s =
      { s with dev := s.dev.misread s.draws, busDraws := s.busDraws.tail, draws := s.draws + 1, result := .busError e,
               dds := { s.dds with log := s.dds.log ++ [⟨h, .write, p, false⟩] } } := by
  simp [writeStep, busTransaction, headerOfBytes_headerBytes, hd, hu]

/-- Every `mirror` output is a well-formed Serial-config byte (30_encoding R111). -/
theorem serialWf_mirrorOf (f : Flags4) : serialWf (mirrorOf f) = true := by
  revert f; decide

/-- A write to a register without side effects only stores (20_memory R69). -/
theorem write_plain (cfg : Params) (d : Device) (addr : Addr) (p : List Byte) (h1 : addr ≠ cfg.addrPartId)
    (h2 : addr ≠ cfg.addrSerial) (h3 : addr ≠ cfg.addrDdsReset) :
    d.write cfg addr p = { d with regs := Memory.set d.regs addr.toNat p } := by
  simp [Device.write, h1, h2, h3]

/-- A device write keeps the register space canonical. -/
theorem write_wf (cfg : Params) (d : Device) (addr : Addr) (p : List Byte) (h : Memory.wf d.regs = true) :
    Memory.wf (d.write cfg addr p).regs = true := by
  have hset : Memory.wf (Memory.set d.regs addr.toNat p) = true := memory_wf_set _ _ _ addr.isLt h
  have hnil : Memory.wf [] = true := rfl
  unfold Device.write Device.softReset
  dsimp only
  repeat' split
  all_goals first | exact h | exact hset | exact hnil

/-- A failed write keeps the register space canonical. -/
theorem writeFailed_wf (cfg : Params) (d : Device) (addr : Addr) (p : List Byte) (h : Memory.wf d.regs = true) :
    Memory.wf (d.writeFailed cfg addr p).regs = true :=
  memory_wf_forget _ _ h

/-- A device read always sends as many bytes as it is asked for. -/
theorem read_length (cfg : Params) (d : Device) (addr : Addr) (len n : Nat) :
    (d.read cfg addr len n).length = len := by
  unfold Device.read
  repeat' split
  all_goals simp_all [length_beBytes, freeBytes]

end Sys2Proof.Machine
end

