-- ==== Sys2Proof/Laws/Machine.lean ====
section
/-! SUPPORT. What the shapes the meanings share can answer (preconditions, reads into the caller's buffer, results that may
not exist), what a transaction does to the register space, the timer, runs of instructions, and the invariant by
channel. -/

namespace Sys2Proof.Machine

/-! ### Preconditions and results -/

/-- `fill` and `peek` go on exactly on a constructed channel, with a reference and an index below `BATCH`. -/
theorem swBuffer_eq_ok_iff (s : State) (ch : Chan) (i : Nat) (b : BufId) :
    s.swBuffer ch i = .ok b ↔ (s.chan ch).phase ≠ .unbuilt ∧ (s.chan ch).swRef = some b ∧ i < s.cfg.batch := by
  unfold State.swBuffer
  by_cases hp : (s.chan ch).phase = .unbuilt
  · simp [hp]
  · cases hr : (s.chan ch).swRef with
    | none => simp [hp]
    | some d => by_cases hi : i < s.cfg.batch <;> simp [hp, hi]

theorem whenInited_eq_next_iff (run : State → State) (s t : State) :
    whenInited run s = .next t ↔ s.dds.inited = true ∧ t = run s := by
  unfold whenInited
  split <;> simp [*, eq_comm]

theorem programWord_eq_next_iff {α : Type} (word : Option α) (run : α → State → State) (s t : State) :
    programWord word run s = .next t ↔ s.dds.inited = true ∧ ∃ w, word = some w ∧ t = run w s := by
  unfold programWord
  cases word <;> split <;> simp [*, eq_comm]

theorem returnIf_eq_next_iff (why : Refusal) (v : Option Value) (s t : State) :
    returnIf why v s = .next t ↔ ∃ x, v = some x ∧ t = { s with result := .returned x } := by
  unfold returnIf
  cases v <;> simp [eq_comm]

/-! ### Headers and reads -/

theorem headerFor_write (addr : Addr) (p : List Byte) (size : BitVec 2) (h : sizeClass p.length = some size) :
    headerFor addr (.w p) = some (iwEncode 0#1 size addr) := by simp [headerFor, h]

theorem headerFor_read (addr : Addr) (n : Nat) (size : BitVec 2) (h : sizeClass n = some size) :
    headerFor addr (.r n) = some (iwEncode 1#1 size addr) := by simp [headerFor, h]

/-- A successful read fills the caller's buffer with the bytes the device sent and returns them. -/
theorem readInto_ok (h : BitVec 16) (n : Nat) (s : State) (hd : s.drawAt 0 = none)
    (hu : s.dev.understands = true) :
    readInto h n s = { s with
      busDraws := s.busDraws.tail, draws := s.draws + 1,
      dds := { s.dds with log := s.dds.log ++ [⟨h, .read, s.dev.read s.cfg (iwDecode h).addr n s.draws, true⟩] }
      outBuf := s.dev.read s.cfg (iwDecode h).addr n s.draws
      result := .returned (.bytes (s.dev.read s.cfg (iwDecode h).addr n s.draws)) } := by
  simp [readInto, busTransaction_read_ok h n s hd hu]

/-- A failed read leaves free bytes in the caller's buffer. -/
theorem readInto_error (h : BitVec 16) (n : Nat) (s : State) (e : TransportError) (hd : s.drawAt 0 = some e)
    (hu : s.dev.understands = true) :
    readInto h n s = { s with
      busDraws := s.busDraws.tail, draws := s.draws + 1, outBuf := freeBytes s.draws n, result := .busError e,
      dds := { s.dds with log := s.dds.log ++ [⟨h, .read, [], false⟩] } } := by
  simp [readInto, busTransaction_read_error h n s e hd hu]

/-! ### The register space under a transaction -/

/-- A device write never lists anything for the part-ID register (U7). -/
theorem write_partId (cfg : Params) (d : Device) (addr : Addr) (p : List Byte)
    (h : Memory.get d.regs cfg.addrPartId.toNat = none) :
    Memory.get (d.write cfg addr p).regs cfg.addrPartId.toNat = none := by
  unfold Device.write Device.softReset
  by_cases ha : addr = cfg.addrPartId
  · subst ha
    dsimp only
    repeat' split
    all_goals first | exact h | rfl | contradiction
  · have hset : Memory.get (Memory.set d.regs addr.toNat p) cfg.addrPartId.toNat = none := by
      rwa [memory_get_set_other _ _ _ _ fun e => ha (BitVec.eq_of_toNat_eq e.symm)]
    dsimp only
    repeat' split
    all_goals first | exact hset | rfl

theorem memory_get_forget_none (m : Memory) (a b : Nat) (h : Memory.get m b = none) :
    Memory.get (Memory.forget m a) b = none := by
  by_cases hab : b = a
  · exact hab ▸ memory_get_forget_same m b
  · rwa [memory_get_forget_other _ _ _ hab]

/-- A transaction, whatever its outcome, keeps the register space canonical and the part-ID register unlisted. -/
theorem busTransaction_regs (header : List Byte) (part : BusPart) (s : State) (hwf : Memory.wf s.dev.regs = true)
    (hid : Memory.get s.dev.regs s.cfg.addrPartId.toNat = none) :
    Memory.wf (busTransaction header part s).2.dev.regs = true ∧
      Memory.get (busTransaction header part s).2.dev.regs s.cfg.addrPartId.toNat = none := by
  unfold busTransaction
  cases part <;> cases s.drawAt 0 <;> simp only [logTx_eq] <;> split
  all_goals first
    | exact ⟨hwf, hid⟩
    | exact ⟨rfl, rfl⟩
    | exact ⟨write_wf _ _ _ _ hwf, write_partId _ _ _ _ hid⟩
    | exact ⟨memory_wf_forget _ _ hwf, memory_get_forget_none _ _ _ hid⟩

/-! ### The timer (10_state R40) -/

theorem eventAt_eq_ch0_iff (cfg : Params) (cnt : Nat) : eventAt cfg cnt = some .ch0 ↔ cnt = cfg.tickOffset0 := by
  change (if cnt = cfg.tickOffset0 then some Chan.ch0 else if cnt = cfg.tickOffset1 then some .ch1 else none) = _ ↔ _
  split <;> simp_all

theorem eventAt_eq_ch1_iff (cfg : Params) (cnt : Nat) (h : cfg.tickOffset0 ≠ cfg.tickOffset1) :
    eventAt cfg cnt = some .ch1 ↔ cnt = cfg.tickOffset1 := by
  change (if cnt = cfg.tickOffset0 then some Chan.ch0 else if cnt = cfg.tickOffset1 then some .ch1 else none) = _ ↔ _
  split <;> simp_all

theorem eventAt_eq_none_iff (cfg : Params) (cnt : Nat) :
    eventAt cfg cnt = none ↔ cnt ≠ cfg.tickOffset0 ∧ cnt ≠ cfg.tickOffset1 := by
  change (if cnt = cfg.tickOffset0 then some Chan.ch0 else if cnt = cfg.tickOffset1 then some .ch1 else none) = _ ↔ _
  split <;> simp_all

/-! ### Runs of instructions -/

theorem runInstrs_append (a b : List Instr) (s : State) :
    runInstrs (a ++ b) s =
      match runInstrs a s with
      | .next t => runInstrs b t
      | .fault r => .fault r
      | .refused r => .refused r := by
  induction a generalizing s with
  | nil => rfl
  | cons i a ih => simp only [List.cons_append, runInstrs]; cases exec i s <;> simp [ih]

/-! ### The invariant by channel -/

theorem inv_chan (s : State) (ch : Chan) (h : s.Inv) : (s.chan ch).Inv s.cfg.batch := by
  cases ch
  · exact h.2.1
  · exact h.2.2.1

theorem builtInv_buf_length (batch : Nat) (c : Channel) (h : c.BuiltInv batch) (b : BufId) :
    (c.buf b).length = batch := by
  cases b
  · exact h.2.1
  · exact h.2.2.1
  · exact h.2.2.2.1

/-- On a channel that meets its invariant the element a beat reads exists. -/
theorem builtInv_bufRead (batch : Nat) (c : Channel) (h : c.BuiltInv batch) :
    ∃ v, c.bufRead c.active c.idx = some v := by
  have hl := builtInv_buf_length batch c h c.active
  have hi : c.idx < batch := h.2.2.2.2.1
  exact ⟨_, List.getElem?_eq_getElem (by omega)⟩

end Sys2Proof.Machine
end

