-- ==== Sys2Proof/Laws/PerInstr.lean ====
section
/-! SUPPORT. A statement made per instruction: an instruction is issued as a bus frame exactly when its row of the opcode
table has format IW16 (30_encoding R98, decision D3). -/

namespace Sys2Proof.Laws.Issued

def Statement (i : Instr) : Prop := i.format = .iw16 ↔ ∃ header part, encode i = .frame header part

theorem ddsWr1 (addr : Addr) (p0 : Byte) : Statement (.ddsWr1 addr p0) := ⟨fun _ => ⟨_, _, rfl⟩, fun _ => rfl⟩
theorem ddsWr2 (addr : Addr) (p0 p1 : Byte) : Statement (.ddsWr2 addr p0 p1) := ⟨fun _ => ⟨_, _, rfl⟩, fun _ => rfl⟩
theorem ddsWr3 (addr : Addr) (p0 p1 p2 : Byte) : Statement (.ddsWr3 addr p0 p1 p2) := ⟨fun _ => ⟨_, _, rfl⟩, fun _ => rfl⟩
theorem ddsWrs (addr : Addr) (payload : List Byte) : Statement (.ddsWrs addr payload) := ⟨fun _ => ⟨_, _, rfl⟩, fun _ => rfl⟩
theorem ddsRd1 (addr : Addr) : Statement (.ddsRd1 addr) := ⟨fun _ => ⟨_, _, rfl⟩, fun _ => rfl⟩
theorem ddsRd2 (addr : Addr) : Statement (.ddsRd2 addr) := ⟨fun _ => ⟨_, _, rfl⟩, fun _ => rfl⟩
theorem ddsRd3 (addr : Addr) : Statement (.ddsRd3 addr) := ⟨fun _ => ⟨_, _, rfl⟩, fun _ => rfl⟩
theorem ddsRds (addr : Addr) (n : Nat) : Statement (.ddsRds addr n) := ⟨fun _ => ⟨_, _, rfl⟩, fun _ => rfl⟩
theorem voltage (code : Code) : Statement (.voltage code) := by simp [Statement, Instr.format, encode]
theorem code (signedSample : BitVec 16) : Statement (.code signedSample) := by simp [Statement, Instr.format, encode]
theorem construct (ch : Chan) : Statement (.construct ch) := by simp [Statement, Instr.format, encode]
theorem start (ch : Chan) : Statement (.start ch) := by simp [Statement, Instr.format, encode]
theorem acquireBuffer (ch : Chan) : Statement (.acquireBuffer ch) := by simp [Statement, Instr.format, encode]
theorem fill (ch : Chan) (i : Nat) (v : Code) : Statement (.fill ch i v) := by simp [Statement, Instr.format, encode]
theorem peek (ch : Chan) (i : Nat) : Statement (.peek ch i) := by simp [Statement, Instr.format, encode]
theorem beat (ch : Chan) : Statement (.beat ch) := by simp [Statement, Instr.format, encode]
theorem sampleEvent (ch : Chan) : Statement (.sampleEvent ch) := by simp [Statement, Instr.format, encode]
theorem write (addr : Addr) (payload : List Byte) : Statement (.write addr payload) := by simp [Statement, Instr.format, encode]
theorem read (addr : Addr) (n : Nat) : Statement (.read addr n) := by simp [Statement, Instr.format, encode]
theorem mirror (f : Flags4) : Statement (.mirror f) := by simp [Statement, Instr.format, encode]
theorem iwEncode (rw : BitVec 1) (size : BitVec 2) (addr : Addr) : Statement (.iwEncode rw size addr) := by simp [Statement, Instr.format, encode]
theorem iwDecode (h : BitVec 16) : Statement (.iwDecode h) := by simp [Statement, Instr.format, encode]
theorem init : Statement (.init) := by simp [Statement, Instr.format, encode]
theorem softReset : Statement (.softReset) := by simp [Statement, Instr.format, encode]
theorem ddsReset : Statement (.ddsReset) := by simp [Statement, Instr.format, encode]
theorem setPll (divider pllConfig : Byte) : Statement (.setPll divider pllConfig) := by simp [Statement, Instr.format, encode]
theorem setFtw (tuningWord : Nat) : Statement (.setFtw tuningWord) := by simp [Statement, Instr.format, encode]
theorem setFrequency (frequency systemClock : Rat) : Statement (.setFrequency frequency systemClock) := by simp [Statement, Instr.format, encode]
theorem setPow (pow : BitVec 14) : Statement (.setPow pow) := by simp [Statement, Instr.format, encode]
theorem setPhase (phase : Rat) : Statement (.setPhase phase) := by simp [Statement, Instr.format, encode]
theorem setFsc (fsc : BitVec 10) : Statement (.setFsc fsc) := by simp [Statement, Instr.format, encode]
theorem setFullScaleCurrent (dacFs rDacRef : Rat) : Statement (.setFullScaleCurrent dacFs rDacRef) := by simp [Statement, Instr.format, encode]
theorem sysclk (refclk : Rat) (refDoubler : Bool) (ndiv : Nat) : Statement (.sysclk refclk refDoubler ndiv) := by simp [Statement, Instr.format, encode]
theorem frequencyToFtw (frequency sysclk : Rat) : Statement (.frequencyToFtw frequency sysclk) := by simp [Statement, Instr.format, encode]
theorem phaseToPow (phase : Rat) : Statement (.phaseToPow phase) := by simp [Statement, Instr.format, encode]
theorem fsToFsc (dacFs rDacRef : Rat) : Statement (.fsToFsc dacFs rDacRef) := by simp [Statement, Instr.format, encode]
theorem storeN (w : StoreWidth) (r : Int) : Statement (.storeN w r) := by simp [Statement, Instr.format, encode]
theorem ftwToFrequency (ftw : BitVec 48) (sysclk : Rat) : Statement (.ftwToFrequency ftw sysclk) := by simp [Statement, Instr.format, encode]
theorem powToPhase (pow : BitVec 14) : Statement (.powToPhase pow) := by simp [Statement, Instr.format, encode]
theorem fscToFs (fsc : BitVec 10) (rDacRef : Rat) : Statement (.fscToFs fsc rDacRef) := by simp [Statement, Instr.format, encode]
theorem sysclkToNdiv (sysclk refclk : Rat) (refDoubler : Bool) : Statement (.sysclkToNdiv sysclk refclk refDoubler) := by simp [Statement, Instr.format, encode]

end Sys2Proof.Laws.Issued
end

