-- ==== Sys2Proof/Tests/Slice0.lean ====
section
/-! SUPPORT. Tests: ill-formed terms are refused, hand-written frames decode, single steps give the values of
spec/95_test_vectors.md (named V.. in the docstrings), and for every obligation with hypotheses a witness that meets
them. -/

namespace Sys2Proof.Tests

open Sys2Proof.Machine

/-! ### Small states -/

/-- A channel with roles (active, armed, filling), index and flag, two codes per buffer, RUNNING. -/
def runningChan (active armed filling : BufId) (idx : Nat) (tc : Bool) : Channel :=
  { Channel.constructed 2 with
    buf0 := [7#16, 9#16], buf1 := [0xA001#16, 0xA002#16], buf2 := [0xB001#16, 0xB002#16]
    active := active, armed := armed, filling := filling, idx := idx, tc := tc, phase := .running }

/-- A channel before `construct`. -/
def unbuiltChan : Channel := { runningChan .b0 .b1 .b2 1 true with phase := .unbuilt }

/-- Configuration X1: both channels constructed, the DDS engine initialised, no transport fault in three draws. -/
def quiet : State :=
  { State.reset with
    cfg := Config.exampleX1, ch0 := Channel.constructed 2, ch1 := Channel.constructed 2
    dds := { inited := true, log := [] }, dev := Device.reset 0x1982#16, tmrCnt := 0
    busDraws := [none, none, none] }

/-- `quiet` with other coming draws. -/
def withDraws (draws : List (Option TransportError)) : State := { quiet with busDraws := draws }

/-- `quiet` with channel 0 as given. -/
def withChan (c : Channel) : State := { quiet with ch0 := c }

/-- `quiet` before `init`. -/
def cold : State := { quiet with dds := { inited := false, log := [] } }

/-- A transport error. -/
def err : TransportError := ⟨7⟩

/-- A part of the next state, if there is one. -/
def onNext {α : Type} (o : Host.Outcome State Fault Refusal) (f : State → α) : Option α :=
  match o with
  | .next t => some (f t)
  | _ => none

/-- Why an instruction is refused, if it is. -/
def refusal (i : Instr) (s : State) : Option Refusal :=
  match exec i s with
  | .refused why => some why
  | _ => none

/-- What the caller is handed. -/
def answer (i : Instr) (s : State) : Option Result := onNext (exec i s) State.result

/-- The transaction log after an instruction. -/
def logged (i : Instr) (s : State) : Option (List TxRecord) := onNext (exec i s) fun t => t.dds.log

/-- Channel 0 after an instruction: active, armed, filling, index, flag. -/
def roles (i : Instr) (c : Channel) : Option (BufId × BufId × BufId × Nat × Bool) :=
  onNext (exec i (withChan c)) fun t => (t.ch0.active, t.ch0.armed, t.ch0.filling, t.ch0.idx, t.ch0.tc)

/-! ### WellFormed: one ill-formed term per check -/

theorem test_wf_short_write_stream : Instr.wf (.ddsWrs 0#13 [1#8, 2#8, 3#8]) = false := by decide
theorem test_wf_short_read_stream : Instr.wf (.ddsRds 0#13 3) = false := by decide
theorem test_wf_empty_write : Instr.wf (.write 0#13 []) = false := by decide
theorem test_wf_empty_read : Instr.wf (.read 0#13 0) = false := by decide
theorem test_wf_ftw_divisor : Instr.wf (.ftwToFrequency 1#48 0) = false := by decide +kernel
theorem test_wf_fsc_divisor : Instr.wf (.fscToFs 1#10 0) = false := by decide +kernel
theorem test_wf_ndiv_divisor : Instr.wf (.sysclkToNdiv 1 0 true) = false := by decide +kernel

/-! ### Decoding -/

/-- V42.1: `00 10 | C0`. -/
theorem test_decode_wr1 : decode (.frame [0x00#8, 0x10#8] (.w [0xC0#8])) = .ok (.ddsWr1 0x0010#13 0xC0#8) := by decide
/-- V42.2: `21 AD | 12 34`. -/
theorem test_decode_wr2 :
    decode (.frame [0x21#8, 0xAD#8] (.w [0x12#8, 0x34#8])) = .ok (.ddsWr2 0x01AD#13 0x12#8 0x34#8) := by decide
/-- V42.3: `41 00 | 01 02 03`. -/
theorem test_decode_wr3 :
    decode (.frame [0x41#8, 0x00#8] (.w [1#8, 2#8, 3#8])) = .ok (.ddsWr3 0x0100#13 1#8 2#8 3#8) := by decide
/-- V42.5: `61 AB | 00 00 00 00 00 04`. -/
theorem test_decode_wrs :
    decode (.frame [0x61#8, 0xAB#8] (.w [0#8, 0#8, 0#8, 0#8, 0#8, 4#8])) =
      .ok (.ddsWrs 0x01AB#13 [0#8, 0#8, 0#8, 0#8, 0#8, 4#8]) := by decide
/-- V42.10: `80 10 | <- 1`; the largest address of V30.8. -/
theorem test_decode_rd1 : decode (.frame [0x80#8, 0x10#8] (.r 1)) = .ok (.ddsRd1 0x0010#13) ∧
    decode (.frame [0x9F#8, 0xFF#8] (.r 1)) = .ok (.ddsRd1 0x1FFF#13) := by decide
/-- V42.8: `A0 03 | <- 2`. -/
theorem test_decode_rd2 : decode (.frame [0xA0#8, 0x03#8] (.r 2)) = .ok (.ddsRd2 0x0003#13) := by decide
/-- V42.11: `C1 00 | <- 3`. -/
theorem test_decode_rd3 : decode (.frame [0xC1#8, 0x00#8] (.r 3)) = .ok (.ddsRd3 0x0100#13) := by decide
/-- V42.9: `E1 AB | <- 6`. -/
theorem test_decode_rds : decode (.frame [0xE1#8, 0xAB#8] (.r 6)) = .ok (.ddsRds 0x01AB#13 6) := by decide

/-- Frames that are no instruction, one for each rejection. -/
theorem test_decode_rejects :
    decode (.frame [0x00#8] (.w [0xC0#8])) = .error .headerLength ∧
    decode (.frame [0x80#8, 0x10#8] (.w [0xC0#8])) = .error .direction ∧
    decode (.frame [0x21#8, 0xAD#8] (.w [0x12#8])) = .error .length ∧
    decode (.frame [0xE1#8, 0xAB#8] (.r 3)) = .error .length ∧
    decode (.call (.ddsRd1 0#13)) = .error .namedForm ∧
    decode (.call (.beat .ch0)) = .error .notCallable ∧
    decode (.call (.sampleEvent .ch1)) = .error .notCallable := by decide

/-- The rows without a bit encoding are selected by name (30_encoding R98). -/
theorem test_decode_channel_calls :
    ∀ i ∈ [Instr.voltage 1#16, .code 2#16, .construct .ch1, .start .ch1, .acquireBuffer .ch1, .fill .ch1 1 3#16,
      .peek .ch1 1], decode (.call i) = .ok i := by decide
theorem test_decode_dds_calls :
    ∀ i ∈ [Instr.write 1#13 [2#8], .read 1#13 2, .mirror 3#4, .iwEncode 1#1 2#2 3#13, .iwDecode 4#16, .init, .softReset,
      .ddsReset, .setPll 1#8 2#8, .setFtw 3, .setPow 4#14, .setFsc 5#10], decode (.call i) = .ok i := by decide
theorem test_decode_converting_setters :
    decode (.call (.setFrequency 1 2)) = .ok (.setFrequency 1 2) ∧ decode (.call (.setPhase 3)) = .ok (.setPhase 3) ∧
    decode (.call (.setFullScaleCurrent 1 2)) = .ok (.setFullScaleCurrent 1 2) := ⟨rfl, rfl, rfl⟩
theorem test_decode_conversions :
    decode (.call (.sysclk 1 true 2)) = .ok (.sysclk 1 true 2) ∧
    decode (.call (.frequencyToFtw 1 2)) = .ok (.frequencyToFtw 1 2) ∧
    decode (.call (.phaseToPow 1)) = .ok (.phaseToPow 1) ∧ decode (.call (.fsToFsc 1 2)) = .ok (.fsToFsc 1 2) ∧
    decode (.call (.storeN .w14 5)) = .ok (.storeN .w14 5) ∧
    decode (.call (.ftwToFrequency 1#48 2)) = .ok (.ftwToFrequency 1#48 2) ∧
    decode (.call (.powToPhase 1#14)) = .ok (.powToPhase 1#14) ∧
    decode (.call (.fscToFs 1#10 2)) = .ok (.fscToFs 1#10 2) ∧
    decode (.call (.sysclkToNdiv 1 2 false)) = .ok (.sysclkToNdiv 1 2 false) :=
  ⟨rfl, rfl, rfl, rfl, rfl, rfl, rfl, rfl, rfl⟩

/-- Words of the opcode table: V30.1 and V30.2 headers in 16 bits, and a payload in the bits above. -/
theorem test_table_words :
    decodeTableWord 16 0x61AB = some (.ddsWrs 0x01AB#13 [0#8, 0#8, 0#8, 0#8]) ∧
    decodeTableWord 16 0xE1AB = some (.ddsRds 0x01AB#13 4) ∧
    decodeTableWord 16 0xA003 = some (.ddsRd2 0x0003#13) ∧
    decodeTableWord 32 0x341221AD = some (.ddsWr2 0x01AD#13 0x12#8 0x34#8) := by decide

/-- A placed word is the next instruction to run. -/
theorem test_fetched_word_runs :
    onNext (step (quiet.withFetchWord 24 0xC00010)) (fun t => t.dds.log) =
      some [⟨0x0010#16, .write, [0xC0#8], true⟩] := by decide

/-! ### Converter and encodings -/

/-- V40.4, V40.11. -/
theorem test_voltage : answer (.voltage 0x7380#16) quiet = some (.returned (.rational (-1))) ∧
    answer (.voltage 0x1234#16) quiet = some (.returned (.rational (-7027 / 800))) := by decide +kernel
/-- V40.16, V40.18. -/
theorem test_code : answer (.code (BitVec.ofInt 16 (-32768))) quiet = some (.returned (.code 0#16)) ∧
    answer (.code (BitVec.ofInt 16 (-16384))) quiet = some (.returned (.code 0x4000#16)) := by decide
/-- V30.19 (flags `0x1` and `0xD`), V30.20. -/
theorem test_mirror : answer (.mirror 0x1#4) quiet = some (.returned (.byte 0x81#8)) ∧
    answer (.mirror 0xD#4) quiet = some (.returned (.byte 0xBD#8)) ∧ mirrorByte 0xFA#8 = 0x5A#8 := by decide
/-- V30.9. -/
theorem test_iw_encode : answer (.iwEncode 1#1 2#2 0x0AAA#13) quiet = some (.returned (.header 0xCAAA#16)) := by decide
/-- V30.15. -/
theorem test_iw_decode : answer (.iwDecode 0xC123#16) quiet = some (.returned (.fields ⟨1#1, 2#2, 0x0123#13⟩)) := by
  decide

/-! ### Waveform channel -/

/-- V41.1. -/
theorem test_construct :
    onNext (exec (.construct .ch0) (withChan unbuiltChan)) State.ch0 = some (Channel.constructed 2) ∧
    roles (.construct .ch0) unbuiltChan = some (.b0, .b1, .b2, 0, false) := by decide
/-- V41.15. -/
theorem test_construct_twice : refusal (.construct .ch0) quiet = some .alreadyConstructed := by decide
/-- V41.3. -/
theorem test_start : onNext (exec (.start .ch1) quiet) (fun t => t.ch1.phase) = some .running := by decide
/-- V41.14. -/
theorem test_start_twice : refusal (.start .ch0) (withChan (runningChan .b0 .b1 .b2 0 false)) = some .notReady := by
  decide
/-- V41.6. -/
theorem test_acquire :
    roles (.acquireBuffer .ch0) (runningChan .b1 .b0 .b2 0 true) = some (.b1, .b2, .b0, 0, false) ∧
    answer (.acquireBuffer .ch0) (withChan (runningChan .b1 .b0 .b2 0 true)) = some (.returned (.bufRef .b0)) := by
  decide
/-- V41.7: the held call hands nothing over and changes no channel. -/
theorem test_acquire_holds :
    onNext (exec (.acquireBuffer .ch0) (withChan (runningChan .b1 .b0 .b2 0 false)))
        (fun t => (t.swHold, t.result, t.ch0)) =
      some (some .ch0, .nothing, runningChan .b1 .b0 .b2 0 false) := by decide
/-- V41.9. -/
theorem test_fill :
    onNext (exec (.fill .ch0 1 0xBEEF#16) (withChan { runningChan .b1 .b2 .b0 0 false with swRef := some .b0 }))
        (fun t => (t.ch0.buf0, t.ch0.buf1, t.ch0.buf2)) =
      some ([7#16, 0xBEEF#16], [0xA001#16, 0xA002#16], [0xB001#16, 0xB002#16]) := by decide
/-- V41.10, V41.11. -/
theorem test_fill_refused :
    refusal (.fill .ch0 2 1#16) (withChan { runningChan .b1 .b2 .b0 0 false with swRef := some .b0 }) = some .indexOutOfRange ∧
    refusal (.fill .ch0 0 1#16) (withChan (runningChan .b0 .b1 .b2 0 false)) = some .noReference := by decide
/-- V41.12. -/
theorem test_peek :
    answer (.peek .ch0 1) (withChan { runningChan .b1 .b2 .b0 0 false with swRef := some .b0 }) =
      some (.returned (.code 9#16)) := by decide
/-- V41.5. -/
theorem test_beat_completes :
    roles (.beat .ch0) (runningChan .b0 .b1 .b2 1 false) = some (.b1, .b0, .b2, 0, true) ∧
    onNext (exec (.beat .ch0) (withChan (runningChan .b0 .b1 .b2 1 false))) (fun t => t.ch0.out) = some [9#16] := by
  decide
/-- V41.8. -/
theorem test_beat_misses_deadline :
    roles (.beat .ch0) (runningChan .b1 .b0 .b2 1 true) = some (.b0, .b1, .b2, 0, true) ∧
    onNext (exec (.beat .ch0) (withChan (runningChan .b1 .b0 .b2 1 true))) (fun t => t.ch0.out) = some [0xA002#16] := by
  decide
/-- V41.4: the event of a RUNNING channel is its beat. -/
theorem test_sample_event :
    roles (.sampleEvent .ch0) (runningChan .b0 .b1 .b2 0 false) = some (.b0, .b1, .b2, 1, false) := by decide
/-- V41.2. -/
theorem test_sample_event_dropped : onNext (exec (.sampleEvent .ch0) quiet) id = some quiet := rfl

/-! ### DDS primitives and forms -/

/-- V42.1. -/
theorem test_write :
    onNext (exec (.write 0x0010#13 [0xC0#8]) quiet) (fun t => (t.result, t.dev.regs, t.dds.log)) =
      some (.returned .unit, [(0x10, [0xC0#8])], [⟨0x0010#16, .write, [0xC0#8], true⟩]) := by decide
/-- V42.14. -/
theorem test_write_fails :
    onNext (exec (.write 0x0020#13 [3#8]) { withDraws [some err] with
        dev := { Device.reset 0x1982#16 with regs := [(0x20, [1#8])] } }) (fun t => (t.result, t.dev.regs, t.dds.log)) =
      some (.busError err, [], [⟨0x0020#16, .write, [3#8], false⟩]) := by decide
/-- V42.8. -/
theorem test_read_identity : answer (.read 0x0003#13 2) quiet = some (.returned (.bytes [0x19#8, 0x82#8])) := by decide
/-- V42.11. -/
theorem test_read_back :
    onNext (exec (.read 0x0100#13 3) { quiet with dev := { Device.reset 0#16 with regs := [(0x100, [1#8, 2#8, 3#8])] } })
        State.outBuf = some [1#8, 2#8, 3#8] := by decide
/-- V42.16. -/
theorem test_wr1_resets_device :
    onNext (exec (.ddsWr1 0x0000#13 0xBD#8) { quiet with
        dev := { Device.reset 0#16 with regs := [(5, [1#8])], resetPending := true } })
      (fun t => (t.dev.regs, t.dev.resetPending)) = some ([], false) := by decide
/-- V42.2. -/
theorem test_wr2 : logged (.ddsWr2 0x01AD#13 0x12#8 0x34#8) quiet =
    some [⟨0x21AD#16, .write, [0x12#8, 0x34#8], true⟩] := by decide
/-- V42.3. -/
theorem test_wr3 : logged (.ddsWr3 0x0100#13 1#8 2#8 3#8) quiet =
    some [⟨0x4100#16, .write, [1#8, 2#8, 3#8], true⟩] := by decide
/-- V42.4. -/
theorem test_wrs : logged (.ddsWrs 0x0100#13 [1#8, 2#8, 3#8, 4#8]) quiet =
    some [⟨0x6100#16, .write, [1#8, 2#8, 3#8, 4#8], true⟩] := by decide
/-- A device that holds seven bytes under `0x0100` (V42.6). -/
def holding : State :=
  { quiet with dev := { Device.reset 0#16 with regs := [(0x100, [1#8, 2#8, 3#8, 4#8, 5#8, 6#8, 7#8])] } }
/-- Reads of the first bytes written (42_dds_primitives R179). -/
theorem test_read_forms :
    onNext (exec (.ddsRd1 0x0100#13) holding) State.outBuf = some [1#8] ∧
    onNext (exec (.ddsRd2 0x0100#13) holding) State.outBuf = some [1#8, 2#8] ∧
    onNext (exec (.ddsRd3 0x0100#13) holding) State.outBuf = some [1#8, 2#8, 3#8] ∧
    onNext (exec (.ddsRds 0x0100#13 4) holding) State.outBuf = some [1#8, 2#8, 3#8, 4#8] := by decide
/-- V42.9, V42.10, V42.11: the headers of the read forms. -/
theorem test_read_form_headers :
    onNext (exec (.ddsRd1 0x0010#13) holding) (fun t => t.dds.log.map TxRecord.header) = some [0x8010#16] ∧
    onNext (exec (.ddsRd2 0x0003#13) holding) (fun t => t.dds.log.map TxRecord.header) = some [0xA003#16] ∧
    onNext (exec (.ddsRd3 0x0100#13) holding) (fun t => t.dds.log.map TxRecord.header) = some [0xC100#16] ∧
    onNext (exec (.ddsRds 0x01AB#13 6) holding) (fun t => t.dds.log.map TxRecord.header) = some [0xE1AB#16] := by
  decide

/-! ### DDS operations -/

/-- V43.1: the first transaction, and all three. -/
theorem test_init : logged .init cold = some [⟨0x0000#16, .write, [0x99#8], true⟩] ∧
    onNext (exec .init cold) (fun t => (t.dds.inited, t.finishOp.dds.inited)) = some (false, true) ∧
    onNext (exec .init cold) (fun t => t.finishOp.dds.log) = some
      [⟨0x0000#16, .write, [0x99#8], true⟩, ⟨0xA003#16, .read, [0x19#8, 0x82#8], true⟩,
        ⟨0x0010#16, .write, [0xC0#8], true⟩] := by decide
/-- V43.2. -/
theorem test_init_identity : onNext (exec .init { cold with dev := Device.reset 0x1983#16 })
    (fun t => t.finishOp.result) = some (.identityError 0x1983#16) := by decide
/-- `quiet` after a chip reset that the block has not seen, with a chip of the given identity. -/
def unseenChip (id : BitVec 16) : State := { quiet with dev := { Device.reset id with resetUnseen := true } }
/-- `quiet` with a device that has been told the other bit order. -/
def otherOrderChip : State := { quiet with dev := { Device.reset 0x1982#16 with regs := [(3, [1#8])], link := .otherOrder } }
/-- 93_implementation_defined U11: a successful `init` makes an unseen chip reset good, a failed one does not. -/
theorem test_init_makes_chip_reset_good :
    onNext (exec .init (unseenChip 0x1982#16)) (fun t => (t.finishOp.result, t.finishOp.dev.resetUnseen)) =
      some (.returned .unit, false) ∧
    onNext (exec .init (unseenChip 0x1983#16)) (fun t => (t.finishOp.result, t.finishOp.dev.resetUnseen)) =
      some (.identityError 0x1983#16, true) := by decide
/-- U11: after an unseen chip reset a setter is accepted and stores nothing known; R178, R179: the primitives act as ever. -/
theorem test_setter_and_write_after_unseen_reset :
    onNext (exec (.setPow 0x1234#14) (unseenChip 0#16)) (fun t => (t.result, t.dev.regs)) =
      some (.returned .unit, []) ∧
    onNext (exec (.write 0x01AD#13 [0x12#8, 0x34#8]) (unseenChip 0#16)) (fun t => (t.result, t.dev.regs)) =
      some (.returned .unit, [(0x1AD, [0x12#8, 0x34#8])]) := by decide
/-- 70_reset_and_hazards R296: a device in the other bit order misreads a mirrored Serial-config write too, with the
soft-reset flag or without it. -/
theorem test_other_order_misreads_every_frame :
    onNext (exec (.write 0x0000#13 [0xBD#8]) otherOrderChip) (fun t => (t.dev.regs, t.dev.link)) =
      some ([], .otherOrder) ∧
    onNext (exec (.write 0x0000#13 [0x99#8]) otherOrderChip) (fun t => (t.dev.regs, t.dev.link)) =
      some ([], .otherOrder) := by decide
/-- V43.4. -/
theorem test_soft_reset : logged .softReset quiet = some [⟨0x0000#16, .write, [0xBD#8], true⟩] ∧
    onNext (exec .softReset quiet) (fun t => (t.dds.inited, t.dev.regs)) = some (false, []) := by decide
/-- V43.5. -/
theorem test_dds_reset : logged .ddsReset quiet = some [⟨0x0012#16, .write, [1#8], true⟩] ∧
    onNext (exec .ddsReset quiet) (fun t => t.dev.resetPending) = some true := by decide
/-- V43.6: the first transaction, and both. -/
theorem test_set_pll : logged (.setPll 3#8 5#8) quiet = some [⟨0x0020#16, .write, [3#8], true⟩] ∧
    onNext (exec (.setPll 3#8 5#8) quiet) (fun t => t.finishOp.dds.log) =
      some [⟨0x0020#16, .write, [3#8], true⟩, ⟨0x0022#16, .write, [5#8], true⟩] := by decide
/-- V43.7. -/
theorem test_set_pll_fails :
    onNext (exec (.setPll 3#8 5#8) (withDraws [none, some err])) (fun t => (t.finishOp.result, t.finishOp.dev.regs)) =
      some (.busError err, [(0x20, [3#8])]) := by decide
/-- A RUNNING channel 0 and a caller before step 2 of `set_pll`, with another call after it. -/
def insideSetPll : State :=
  { withChan (runningChan .b0 .b1 .b2 0 false) with
    ddsOp := some (.pllControl 5#8), calls := [.call .init], tmrCnt := 99 }
/-- 20_memory R75: a beat falls between two transactions of one `set_pll`; R74: the second comes before the next call. -/
theorem test_beat_inside_set_pll :
    onNext (step { insideSetPll with sched := [.tick] }) (fun t => (t.ch0.out, t.ddsOp)) =
      some ([7#16], some (.pllControl 5#8)) ∧
    onNext (step { insideSetPll with sched := [.sw] }) (fun t => (t.dds.log, t.ddsOp, t.calls)) =
      some ([⟨0x0022#16, .write, [5#8], true⟩], none, [.call .init]) := by decide
/-- V43.10, V43.10b. -/
theorem test_set_ftw :
    logged (.setFtw 0x0123456789AB) quiet =
      some [⟨0x61AB#16, .write, [0x01#8, 0x23#8, 0x45#8, 0x67#8, 0x89#8, 0xAB#8], true⟩] ∧
    logged (.setFtw (2 ^ 48 + 5)) quiet =
      some [⟨0x61AB#16, .write, [0#8, 0#8, 0#8, 0#8, 0#8, 5#8], true⟩] := by decide +kernel
/-- V43.11b. -/
theorem test_set_frequency :
    onNext (exec (.setFrequency 1000000 (2 ^ 96 / 10 ^ 9)) quiet) (fun t => (t.result, t.dds.log)) =
      some (.returned (.ftw 281474976711#48),
        [⟨0x61AB#16, .write, [0x00#8, 0x41#8, 0x89#8, 0x37#8, 0x4B#8, 0xC7#8], true⟩]) := by decide +kernel
/-- V43.12. -/
theorem test_set_pow : logged (.setPow 0x1234#14) quiet = some [⟨0x21AD#16, .write, [0x12#8, 0x34#8], true⟩] := by
  decide
/-- V43.14, V43.18. -/
theorem test_set_phase :
    onNext (exec (.setPhase 1638400) quiet) (fun t => (t.result, t.dds.log)) =
      some (.returned (.pow 100#14), [⟨0x21AD#16, .write, [0x00#8, 0x64#8], true⟩]) ∧
    refusal (.setPhase 268427264) quiet = some .conversionRange := by decide +kernel
/-- V43.15. -/
theorem test_set_fsc : logged (.setFsc 0x1FF#10) quiet = some [⟨0x240C#16, .write, [0x01#8, 0xFF#8], true⟩] := by decide
/-- V43.16. -/
theorem test_set_full_scale_current :
    onNext (exec (.setFullScaleCurrent (9 / 80) 1000) quiet) (fun t => (t.result, t.dds.log)) =
      some (.returned (.fsc 884#10), [⟨0x240C#16, .write, [0x03#8, 0x74#8], true⟩]) := by decide +kernel
/-- V43.17. -/
theorem test_refused_before_init : refusal (.setFtw 1) cold = some .notInitialised := by decide

/-! ### Conversions -/

/-- V44.2, V44.7. -/
theorem test_sysclk : answer (.sysclk 50000000 true 3) quiet = some (.returned (.rational 1000000000)) ∧
    answer (.sysclk 100000000 true 255) quiet = some (.returned (.rational 102800000000)) := by decide +kernel
/-- V44.10, V44.11, V44.17. -/
theorem test_frequency_to_ftw :
    answer (.frequencyToFtw 1 (2 ^ 47)) quiet = some (.returned (.ftw 1#48)) ∧
    answer (.frequencyToFtw 1 (2 ^ 47 - 1)) quiet = some (.returned (.ftw 0#48)) ∧
    answer (.frequencyToFtw (2 ^ 48) (2 ^ 48 + 5)) quiet = some (.returned (.ftw 5#48)) := by decide +kernel
/-- V44.18, V44.19. -/
theorem test_frequency_to_ftw_negative :
    answer (.frequencyToFtw (-1) (2 ^ 47 - 1)) quiet = some (.returned (.ftw 0#48)) ∧
    refusal (.frequencyToFtw (-1) (2 ^ 47)) quiet = some .conversionRange := by decide +kernel
/-- V44.26, V44.31. -/
theorem test_phase_to_pow : answer (.phaseToPow 40960) quiet = some (.returned (.pow 3#14)) ∧
    refusal (.phaseToPow 268427264) quiet = some .conversionRange := by decide +kernel
/-- V44.36, V44.39, V44.47. -/
theorem test_fs_to_fsc : answer (.fsToFsc (1 / 100) 10000) quiet = some (.returned (.fsc 828#10)) ∧
    answer (.fsToFsc (9 / 80) 1) quiet = some (.returned (.fsc 385#10)) ∧
    refusal (.fsToFsc (-86.5125) 1) quiet = some .conversionRange := by decide +kernel
/-- V44.53, V44.54. -/
theorem test_store_n : refusal (.storeN .w14 16384) quiet = some .conversionRange ∧
    refusal (.storeN .w48 (-1)) quiet = some .conversionRange ∧
    answer (.storeN .w48 (2 ^ 49 + 7)) quiet = some (.returned (.word 7)) := by decide +kernel
/-- V44.48. -/
theorem test_ftw_to_frequency : answer (.ftwToFrequency 4#48 1000000000) quiet =
    some (.returned (.rational (4 * 2 ^ 48 / 10 ^ 9))) := by decide +kernel
/-- V44.50. -/
theorem test_pow_to_phase : answer (.powToPhase 100#14) quiet = some (.returned (.rational 1638400)) := by decide +kernel
/-- V44.51. -/
theorem test_fsc_to_fs : answer (.fscToFs 884#10 1000) quiet = some (.returned (.rational (9 / 80))) := by decide +kernel
/-- V44.52. -/
theorem test_sysclk_to_ndiv : answer (.sysclkToNdiv 1000000000 100000000 false) quiet =
    some (.returned (.rational 3)) := by decide +kernel

/-! ### The surroundings -/

/-- V60.5: the counter reaches offset 0 from 99, and offset 4 from 3 (10_state R40, X1). -/
theorem test_tick_events :
    onNext (step { withChan (runningChan .b0 .b1 .b2 0 false) with sched := [.tick], tmrCnt := 99 })
      (fun t => (t.tmrCnt, t.ch0.out, t.ch1.out)) = some (0, [7#16], []) ∧
    onNext (step { quiet with ch1 := runningChan .b0 .b1 .b2 0 false, sched := [.tick], tmrCnt := 3 })
      (fun t => (t.tmrCnt, t.ch0.out, t.ch1.out)) = some (4, [], [7#16]) := by decide
/-- V60.2: with no completion a held caller stays held, whatever its next call is. -/
theorem test_held_caller_stays :
    onNext (step { withChan (runningChan .b0 .b1 .b2 0 false) with
        swHold := some .ch0, sched := [.sw], calls := [.call .init] }) (fun t => (t.swHold, t.calls, t.dds.log)) =
      some (some .ch0, [.call .init], []) := by decide
/-- 41_waveform_channel R145, R146: once a batch has completed, the held caller's turn returns the buffer. -/
theorem test_completion_lifts_hold :
    onNext (step { withChan (runningChan .b1 .b0 .b2 0 true) with swHold := some .ch0, sched := [.sw] })
      (fun t => (t.swHold, t.result)) = some (none, .returned (.bufRef .b0)) := by decide
/-- 42_dds_primitives R181 and 70_reset_and_hazards R282. -/
theorem test_strobe_and_chip_reset :
    onNext (step { quiet with
        dev := { Device.reset 0#16 with resetPending := true, regs := [(3, [1#8])] }
        sched := [.updateStrobe] }) (fun t => (t.dev.resetPending, t.dev.regs)) = some (false, [(3, [1#8])]) ∧
    onNext (step { quiet with
        dev := { Device.reset 0#16 with resetPending := true, regs := [(3, [1#8])] }
        sched := [.chipReset] }) (fun t => (t.dev.resetPending, t.dev.regs, t.dds.inited, t.dev.resetUnseen)) =
      some (false, [], true, true) ∧
    onNext (step { cold with sched := [.chipReset] }) (fun t => t.dev.resetUnseen) = some false := by decide

/-! ### Witnesses: states and operands that meet the hypotheses of each obligation, clause by clause -/

/-- Channel 0 with the buffer `b0` handed to the caller. -/
def acquired : State := withChan { runningChan .b1 .b2 .b0 0 false with swRef := some .b0 }
/-- Channel 0 in the middle of a batch. -/
def midBatch : State := withChan (runningChan .b0 .b1 .b2 0 false)
/-- Channel 0 before its last beat, with the flag already set. -/
def lateBatch : State := withChan (runningChan .b1 .b0 .b2 1 true)
/-- Channel 0 right after a completion. -/
def completed : State := withChan (runningChan .b1 .b0 .b2 0 true)

theorem acquired_inv : acquired.Inv := ⟨by decide, by decide, by decide, by decide, by decide, by decide, by decide⟩
theorem lateBatch_inv : lateBatch.Inv := ⟨by decide, by decide, by decide, by decide, by decide, by decide, by decide⟩
theorem completed_inv : completed.Inv := ⟨by decide, by decide, by decide, by decide, by decide, by decide, by decide⟩

theorem witness_CodeFlipsSampleTopBitAndIsInvertible :
    (-32768 : Int) ≤ -32768 ∧ (-32768 : Int) ≤ 32767 ∧ (-32768 : Int) ≤ 32767 ∧ (32767 : Int) ≤ 32767 := by decide
theorem witness_VoltageIsIncreasingAndSymmetric :
    (-32768 : Int) ≤ -32768 ∧ (32767 : Int) ≤ 32767 ∧ (0#16 : Code) < 0xFFFF#16 ∧ 1 ≤ 1 ∧ 32767 ≤ 32767 ∧
      (0xFFFE#16 : Code) ≠ 0xFFFF#16 := by decide
theorem witness_MirrorCopiesFlagsReversed : 0 < 4 ∧ 3 < 4 := by decide
theorem witness_SerialConfigBytesRoundTrip : 0 < 8 ∧ 7 < 8 ∧ serialWf 0x99#8 = true := by decide
theorem witness_SizeClassOfLength : 4 ≤ 4 ∧ ([1#8, 2#8, 3#8] : List Byte).length < 4 ∧ 3 < 4 := by decide
theorem witness_ConstructGivesChannelItsValues :
    ((withChan unbuiltChan).chan .ch0).phase = .unbuilt ∧ (quiet.chan .ch0).phase ≠ .unbuilt := by decide
theorem witness_StartChangesPhaseOnly : (quiet.chan .ch0).phase = .ready ∧ (midBatch.chan .ch0).phase = .running ∧
    ((withChan unbuiltChan).chan .ch0).phase = .unbuilt := by decide
theorem witness_AcquireRotatesAndReturnsConsumedBuffer :
    (completed.chan .ch0).phase ≠ .unbuilt ∧ (completed.chan .ch0).tc = true := by decide
theorem witness_AcquireHoldsWhileNothingCompleted :
    (midBatch.chan .ch0).phase ≠ .unbuilt ∧ (midBatch.chan .ch0).tc = false ∧
    (let s := { midBatch with swHold := some .ch0, sched := [.sw] }
     s.swHold = some .ch0 ∧ s.sched = .sw :: [] ∧ (s.chan .ch0).phase ≠ .unbuilt ∧ (s.chan .ch0).tc = false) := by
  decide
theorem witness_ChannelCallsOutsideTheirPreconditionStop :
    ((withChan unbuiltChan).chan .ch0).phase = .unbuilt ∧
    ((quiet.chan .ch0).phase ≠ .unbuilt ∧ (quiet.chan .ch0).swRef = none) ∧
    ((acquired.chan .ch0).phase ≠ .unbuilt ∧ (acquired.chan .ch0).swRef ≠ none ∧ acquired.cfg.batch ≤ 2) ∧
    (quiet.chan .ch0).phase ≠ .running := by decide
theorem witness_FillStoresOneElement : acquired.Inv ∧ (acquired.chan .ch0).phase ≠ .unbuilt ∧
    (acquired.chan .ch0).swRef = some .b0 ∧ 0 < acquired.cfg.batch ∧ 1 < acquired.cfg.batch := ⟨acquired_inv, by decide⟩
theorem witness_PeekReadsReferencedElement : acquired.Inv ∧ (acquired.chan .ch0).phase ≠ .unbuilt ∧
    (acquired.chan .ch0).swRef = some .b0 ∧ 0 < acquired.cfg.batch ∧ 1 < acquired.cfg.batch := ⟨acquired_inv, by decide⟩
theorem witness_BeatEmitsOneCodeAndCompletes :
    ((midBatch.chan .ch0).phase = .running ∧
      (midBatch.chan .ch0).bufRead (midBatch.chan .ch0).active (midBatch.chan .ch0).idx = some 7#16) ∧
    ((lateBatch.chan .ch0).phase = .running ∧
      (lateBatch.chan .ch0).bufRead (lateBatch.chan .ch0).active (lateBatch.chan .ch0).idx = some 0xA002#16) := by
  decide
theorem witness_EventBeforeStartIsDropped :
    (quiet.chan .ch0).phase ≠ .running ∧ ((withChan unbuiltChan).chan .ch0).phase ≠ .running := by decide
theorem witness_MissedDeadlineLeavesNoTrace :
    lateBatch.Inv ∧ (lateBatch.chan .ch0).missesDeadline lateBatch.cfg.batch = true := ⟨lateBatch_inv, by decide⟩
theorem witness_BatchStreamsActiveBuffer : (midBatch.chan .ch0).phase = .running ∧
    (midBatch.chan .ch0).BuiltInv midBatch.cfg.batch ∧ (midBatch.chan .ch0).idx = 0 := by decide
theorem witness_UnservedEngineRepeatsItsTwoBuffers : (completed.chan .ch0).phase = .running ∧
    (completed.chan .ch0).BuiltInv completed.cfg.batch ∧ (completed.chan .ch0).idx = 0 := by decide
theorem witness_HandedOverBufferIsSecondNextBatch : completed.Inv ∧ (completed.chan .ch0).phase = .running ∧
    (completed.chan .ch0).idx = 0 ∧ (completed.chan .ch0).tc = true := ⟨completed_inv, by decide⟩
theorem witness_ThreeTimelyCallsReturnAllBuffers : completed.Inv ∧ (completed.chan .ch0).phase = .running ∧
    (completed.chan .ch0).idx = 0 ∧ (completed.chan .ch0).tc = true := ⟨completed_inv, by decide⟩
theorem witness_InstancesShareNoState :
    (∃ t, exec (.start .ch0) quiet = .next t) ∧ instrChannel (.start .ch0) ≠ some .ch1 ∧
      instrChannel (.start .ch0) ≠ none := ⟨⟨_, rfl⟩, by decide, by decide⟩
theorem witness_SampleEventsOfTwoChannelsCommute :
    instrChannel (.setPll 3#8 5#8) = none ∧ (onNext (exec (.sampleEvent .ch0) midBatch) id).isSome = true ∧
    (onNext (exec (.setPll 3#8 5#8) midBatch) id).isSome = true ∧
    (onNext (exec (.sampleEvent .ch0) insideSetPll) id).isSome = true := by decide
theorem witness_EngineOwnedBuffersAreNeverWritten :
    acquired.Inv ∧ (acquired.chan .ch0).phase ≠ .unbuilt ∧ acquired.softwareOwns .ch0 .b0 = true ∧
      acquired.engineOwns .ch0 .b1 = true ∧ acquired.engineOwns .ch0 .b2 = true ∧
      (onNext (exec (.fill .ch0 0 5#16) acquired) id).isSome = true := ⟨acquired_inv, by decide⟩

/-- States with a failing draw: the device takes setters, is in the other bit order, was reset unseen. -/
def failing : State := withDraws [some err]
def failingOtherOrder : State := { otherOrderChip with busDraws := [some err] }
def failingUnseen : State := { unseenChip 0#16 with busDraws := [some err] }

theorem witness_WriteStoresPayloadAndLogs :
    sizeClass [0xC0#8].length = some 0#2 ∧ sizeClass [1#8, 2#8, 3#8, 4#8].length = some 3#2 ∧
    quiet.drawAt 0 = none ∧ quiet.dev.link = .inOrder ∧ (0x0010#13 : Addr) ≠ quiet.cfg.addrPartId ∧
    (0x0010#13 : Addr) ≠ quiet.cfg.addrSerial ∧ (0x0010#13 : Addr) ≠ quiet.cfg.addrDdsReset := by decide
/-- `0xDB` is the mirrored byte with the bit-order flag set, `0xBD` the one with the soft-reset flag set. -/
theorem witness_WritesWithSideEffects :
    sizeClass [0xBD#8].length = some 0#2 ∧ sizeClass [1#8].length = some 0#2 ∧ quiet.cfg.Wf ∧ quiet.drawAt 0 = none ∧
    quiet.dev.link = .inOrder ∧ (serialFieldsOf [0xBD#8]).softReset = true ∧
    ((serialFieldsOf [0x99#8]).softReset = false ∧ (serialFieldsOf [0x99#8]).lsbFirst = false) ∧
    ((serialFieldsOf [0xDB#8]).softReset = false ∧ (serialFieldsOf [0xDB#8]).lsbFirst = true) := by decide
theorem witness_FailedWriteForgetsItsRegister :
    sizeClass [3#8].length = some 0#2 ∧ (failing.drawAt 0 = some err ∧ failing.dev.link = .inOrder) ∧
    (failingOtherOrder.drawAt 0 = some err ∧ failingOtherOrder.dev.link = .otherOrder) := by decide
theorem witness_ReadReturnsWhatTheDeviceHolds :
    sizeClass 2 = some 1#2 ∧ holding.drawAt 0 = none ∧ holding.dev.link = .inOrder ∧
    ¬ ((0x0100#13 : Addr) = holding.cfg.addrPartId ∧ 2 = 2) ∧
    ¬ ((0x0100#13 : Addr) = holding.cfg.addrDdsReset ∧ holding.dev.resetTaken = true) ∧
    Memory.get holding.dev.regs (0x0100#13 : Addr).toNat = some [1#8, 2#8, 3#8, 4#8, 5#8, 6#8, 7#8] ∧
    2 ≤ 7 ∧ holding.cfg.addrPartId = 0x0003#13 := by decide
theorem witness_FailedReadLeavesTheDevice :
    sizeClass 2 = some 1#2 ∧ (failing.drawAt 0 = some err ∧ failing.dev.link = .inOrder) ∧
    (failingOtherOrder.drawAt 0 = some err ∧ failingOtherOrder.dev.link = .otherOrder) := by decide
theorem witness_WriteFormsAreWrites : quiet.drawAt 0 = none ∧
    (otherOrderChip.drawAt 0 = none ∧ otherOrderChip.dev.link = .otherOrder) := by decide
theorem witness_ReadFormsAreReads : quiet.drawAt 0 = none ∧ 4 ≤ 4 ∧
    (otherOrderChip.drawAt 0 = none ∧ otherOrderChip.dev.link = .otherOrder) := by decide

theorem witness_InitSucceedsOnTheExpectedChip :
    cold.cfg.Wf ∧ cold.cfg.serialInit.getLsbD 1 = false ∧ cold.dev.id = 0x1982#16 ∧ cold.dev.link = .inOrder ∧
      cold.drawAt 0 = none ∧ cold.drawAt 1 = none ∧ cold.drawAt 2 = none := by decide
theorem witness_InitReportsWrongIdentity :
    (let s := { cold with dev := Device.reset 0x1983#16 }
     s.cfg.Wf ∧ s.cfg.serialInit.getLsbD 1 = false ∧ s.dev.id ≠ 0x1982#16 ∧ s.dev.link = .inOrder ∧
      s.drawAt 0 = none ∧ s.drawAt 1 = none) := by decide
theorem witness_InitStopsAtTheFirstFailingStep :
    cold.cfg.Wf ∧ cold.cfg.serialInit.getLsbD 1 = false ∧ cold.dev.link = .inOrder ∧
    State.drawAt { cold with busDraws := [some err] } 0 = some err ∧
    (State.drawAt { cold with busDraws := [none, some err] } 0 = none ∧
      State.drawAt { cold with busDraws := [none, some err] } 1 = some err) ∧
    (let s := { cold with busDraws := [none, none, some err] }
     s.drawAt 0 = none ∧ s.drawAt 1 = none ∧ s.dev.id = 0x1982#16 ∧ s.drawAt 2 = some err) ∧
    otherOrderChip.dev.link = .otherOrder := by decide
theorem witness_SoftResetForgetsConfiguration :
    quiet.cfg.Wf ∧ quiet.dds.inited = true ∧ quiet.dev.link = .inOrder ∧ quiet.drawAt 0 = none ∧
    ((withDraws [some err]).cfg.Wf ∧ (withDraws [some err]).dds.inited = true ∧
      (withDraws [some err]).drawAt 0 = some err ∧ (withDraws [some err]).dev.link = .inOrder) ∧
    (otherOrderChip.cfg.Wf ∧ otherOrderChip.dds.inited = true ∧ otherOrderChip.drawAt 0 = none) := by decide
theorem witness_DdsResetWaitsForTheStrobe :
    quiet.cfg.Wf ∧ quiet.dds.inited = true ∧ quiet.drawAt 0 = none ∧ quiet.dev.TakesSetters ∧
    ({ quiet with sched := [.updateStrobe] } : State).sched = .updateStrobe :: [] ∧
    ({ quiet with sched := [.chipReset] } : State).sched = .chipReset :: [] ∧
    (otherOrderChip.cfg.Wf ∧ otherOrderChip.dds.inited = true ∧ ¬ otherOrderChip.dev.TakesSetters ∧
      otherOrderChip.drawAt 0 = none ∧ otherOrderChip.drawAt 1 = none) ∧
    ((unseenChip 0#16).cfg.Wf ∧ (unseenChip 0#16).dds.inited = true ∧ ¬ (unseenChip 0#16).dev.TakesSetters ∧
      (unseenChip 0#16).drawAt 0 = none ∧ (unseenChip 0#16).drawAt 1 = none) := by decide
theorem witness_SetPllWritesBothRegistersInOrder :
    quiet.cfg.Wf ∧ quiet.dds.inited = true ∧ quiet.drawAt 0 = none ∧ quiet.drawAt 1 = none ∧
    quiet.dev.TakesSetters ∧
    (otherOrderChip.cfg.Wf ∧ otherOrderChip.dds.inited = true ∧ ¬ otherOrderChip.dev.TakesSetters ∧
      otherOrderChip.drawAt 0 = none ∧ otherOrderChip.drawAt 1 = none) ∧
    ((unseenChip 0#16).cfg.Wf ∧ (unseenChip 0#16).dds.inited = true ∧ ¬ (unseenChip 0#16).dev.TakesSetters ∧
      (unseenChip 0#16).drawAt 0 = none ∧ (unseenChip 0#16).drawAt 1 = none) := by decide
theorem witness_SetPllFailureLeavesFirstWrite :
    quiet.cfg.Wf ∧ quiet.dds.inited = true ∧ quiet.dev.TakesSetters ∧
    (withDraws [some err]).drawAt 0 = some err ∧
    (withDraws [none, some err]).drawAt 0 = none ∧ (withDraws [none, some err]).drawAt 1 = some err ∧
    (failingOtherOrder.cfg.Wf ∧ failingOtherOrder.dds.inited = true ∧ failingOtherOrder.drawAt 0 = some err ∧
      ¬ failingOtherOrder.dev.TakesSetters) ∧
    (let s := { unseenChip 0#16 with busDraws := [none, some err] }
     s.cfg.Wf ∧ s.dds.inited = true ∧ s.drawAt 0 = none ∧ s.drawAt 1 = some err ∧ ¬ s.dev.TakesSetters) := by decide
theorem witness_WordSettersWriteTheirImages :
    quiet.cfg.Wf ∧ quiet.dds.inited = true ∧ quiet.drawAt 0 = none ∧ quiet.dev.TakesSetters ∧
    (otherOrderChip.cfg.Wf ∧ otherOrderChip.dds.inited = true ∧ ¬ otherOrderChip.dev.TakesSetters ∧
      otherOrderChip.drawAt 0 = none ∧ otherOrderChip.drawAt 1 = none) ∧
    ((unseenChip 0#16).cfg.Wf ∧ (unseenChip 0#16).dds.inited = true ∧ ¬ (unseenChip 0#16).dev.TakesSetters ∧
      (unseenChip 0#16).drawAt 0 = none ∧ (unseenChip 0#16).drawAt 1 = none) := by decide
/-- V43.11, V43.14, V43.16. -/
theorem witness_ConvertingSettersReturnTheWordWritten :
    quiet.cfg.Wf ∧ quiet.dds.inited = true ∧ quiet.drawAt 0 = none ∧ quiet.dev.TakesSetters ∧
    ftwOf 1000000 1000000000 = some 4#48 ∧ powOf 1638400 = some 100#14 ∧ fscOf (9 / 80) 1000 = some 884#10 ∧
    (otherOrderChip.cfg.Wf ∧ otherOrderChip.dds.inited = true ∧ ¬ otherOrderChip.dev.TakesSetters ∧
      otherOrderChip.drawAt 0 = none ∧ otherOrderChip.drawAt 1 = none) ∧
    ((unseenChip 0#16).cfg.Wf ∧ (unseenChip 0#16).dds.inited = true ∧ ¬ (unseenChip 0#16).dev.TakesSetters ∧
      (unseenChip 0#16).drawAt 0 = none ∧ (unseenChip 0#16).drawAt 1 = none) := by
  decide +kernel
theorem witness_OneStepOperationFailureForgetsItsTarget :
    (let s := withDraws [some err]
     s.dds.inited = true ∧ s.drawAt 0 = some err ∧ s.dev.TakesSetters ∧ s.cfg.addrDdsReset = 0x0012#13) ∧
    ftwOf 1000000 1000000000 = some 4#48 ∧ powOf 1638400 = some 100#14 ∧ fscOf (9 / 80) 1000 = some 884#10 ∧
    (failingOtherOrder.dds.inited = true ∧ failingOtherOrder.drawAt 0 = some err ∧
      ¬ failingOtherOrder.dev.TakesSetters) ∧
    (failingUnseen.dds.inited = true ∧ failingUnseen.drawAt 0 = some err ∧ ¬ failingUnseen.dev.TakesSetters) := by
  decide +kernel
/-- V44.19, V44.31, V44.47. -/
theorem witness_OperationsOutsideTheirPreconditionStop :
    cold.dds.inited = false ∧ quiet.dds.inited = true ∧ ftwOf (-1) (2 ^ 47) = none ∧ powOf 268427264 = none ∧
    fscOf (-86.5125) 1 = none := by decide +kernel
theorem witness_FrequencyReadsBackExactly :
    quiet.cfg.Wf ∧ quiet.dds.inited = true ∧ quiet.dev.TakesSetters ∧ quiet.drawAt 0 = none ∧
    quiet.drawAt 1 = none ∧ ftwOf 1000000 (2 ^ 96 / 10 ^ 9) = some 281474976711#48 := by decide +kernel

theorem witness_RoundIsNearestWithTiesAwayFromZero : (-(1 / 2) : Rat) ≤ 1 / 2 := by decide +kernel
theorem witness_StoreNFitsTruncatesOrRefuses :
    ((0 : Int) ≤ 0 ∧ (0 : Int) < 2 ^ StoreWidth.bits .w14) ∧
    ((0 : Int) ≤ 16383 ∧ (16383 : Int) < 2 ^ StoreWidth.bits .w14) ∧
    (StoreWidth.w48 = .w48 ∧ (2 : Int) ^ 48 ≤ 2 ^ 48) ∧ (-1 : Int) < 0 ∧
    (StoreWidth.w10 ≠ .w48 ∧ (2 : Int) ^ StoreWidth.bits .w10 ≤ 1024) := by decide
/-- V44.9, V44.16, V44.18, V44.19. -/
theorem witness_FrequencyToFtwFollowsTheLiteralFormula :
    roundQ (0 * 1000000000 / 2 ^ 48) = 0 ∧ roundQ (2 ^ 48 * 2 ^ 48 / 2 ^ 48) = 2 ^ 48 ∧
    roundQ (-1 * (2 ^ 47 - 1) / 2 ^ 48) = 0 ∧ roundQ (-1 * 2 ^ 47 / 2 ^ 48) < 0 := by decide +kernel
/-- V44.30, V44.31, V44.33, V44.41, V44.42, V44.46, V44.47. -/
theorem witness_PhaseAndCurrentWordsFollowTheLiteralFormulas :
    roundQ (268427263 / 2 ^ 14) = 16383 ∧ 2 ^ 14 ≤ roundQ (268427264 / 2 ^ 14) ∧ roundQ (-8192 / 2 ^ 14) < 0 ∧
    roundQ (143.8874 * 1 * (40 / 9) + 384) = 1023 ∧ 2 ^ 10 ≤ roundQ (143.8875 * 1 * (40 / 9) + 384) ∧
    roundQ (-86.5124 * 1 * (40 / 9) + 384) = 0 ∧ roundQ (-86.5125 * 1 * (40 / 9) + 384) < 0 := by decide +kernel
theorem witness_InverseConversionsUndoTheForwardOnes : (1000000000 : Rat) ≠ 0 ∧ (-1 : Rat) ≠ 0 := by decide +kernel

theorem witness_DecodeOfEncodeIsTheInstruction :
    (Instr.ddsWrs 0x1FFF#13 [1#8, 2#8, 3#8, 4#8]).wf = true ∧
    (Instr.ddsWrs 0x1FFF#13 [1#8, 2#8, 3#8, 4#8]).agent = .sw ∧ Instr.init.wf = true ∧ Instr.init.agent = .sw := by
  decide
theorem witness_EncodeOfDecodeIsTheRequest :
    decode (.frame [0x61#8, 0x00#8] (.w [1#8, 2#8, 3#8, 4#8])) = .ok (.ddsWrs 0x0100#13 [1#8, 2#8, 3#8, 4#8]) ∧
    decode (.call .init) = .ok .init := by decide
theorem witness_StepRunsTheDecodedInstruction :
    (let s := { quiet with sched := [.sw], calls := [.frame [0xA0#8, 0x03#8] (.r 2)] }
     s.sched = .sw :: [] ∧ s.swHold = none ∧ s.ddsOp = none ∧ s.calls = .frame [0xA0#8, 0x03#8] (.r 2) :: []) ∧
    decode (.frame [0xA0#8, 0x03#8] (.r 2)) = .ok (.ddsRd2 0x0003#13) ∧
    (let s := { insideSetPll with sched := [.sw] }
     s.sched = .sw :: [] ∧ s.swHold = none ∧ s.ddsOp = some (.pllControl 5#8)) ∧
    (let s := { completed with swHold := some .ch0, sched := [.sw] }
     s.sched = .sw :: [] ∧ s.swHold = some .ch0 ∧ (s.chan .ch0).tc = true) := by decide
/-- The counter wraps from 99 to the offset 0, steps from 3 to the offset 4, and from 4 to 5. -/
theorem witness_TickRunsTheDueSampleEvent :
    ({ quiet with sched := [.tick] } : State).sched = .tick :: [] ∧ quiet.cfg.tickOffset0 ≠ quiet.cfg.tickOffset1 ∧
    (if 99 + 1 < quiet.cfg.timerPeriod then 99 + 1 else 0) = quiet.cfg.tickOffset0 ∧
    (if 3 + 1 < quiet.cfg.timerPeriod then 3 + 1 else 0) = quiet.cfg.tickOffset1 ∧
    (if 4 + 1 < quiet.cfg.timerPeriod then 4 + 1 else 0) = 5 := by decide
theorem witness_EachPeriodHasOneEventPerChannel : Config.exampleX1.Wf ∧
    ({ Config.exampleX1 with tickOffset0 := 99, tickOffset1 := 0 } : Params).Wf := by decide
theorem insideSetPll_inv : insideSetPll.Inv :=
  ⟨by decide, by decide, by decide, by decide, by decide, by decide, by decide, by decide⟩
theorem witness_EveryStepKeepsAGoodState :
    ({ completed with sched := [.sw, .tick], calls := [.call (.acquireBuffer .ch0)] } : State).Inv ∧
    (onNext (step { completed with sched := [.sw, .tick], calls := [.call (.acquireBuffer .ch0)] }) id).isSome =
      true ∧
    ({ insideSetPll with sched := [.sw] } : State).Inv ∧
    (onNext (step { insideSetPll with sched := [.sw] }) id).isSome = true :=
  ⟨completed_inv, by decide, insideSetPll_inv, by decide⟩
theorem witness_GoodStatesNeverFault : ({ lateBatch with sched := [.tick], tmrCnt := 99 } : State).Inv := lateBatch_inv

end Sys2Proof.Tests
end

section
/-! The Instruction Word as arithmetic (30_encoding R91, R92): its three fields occupy disjoint bits, so the header is the
sum of the shifted fields, and each field is a quotient and a remainder of the header. -/

namespace Sys2Proof
open Sys2Proof.Machine

/-! ### What the two instructions answer -/

theorem exec_iwEncode (rw : BitVec 1) (size : BitVec 2) (addr : Addr) (s : State) :
    exec (.iwEncode rw size addr) s = .next { s with result := .returned (.header (iwEncode rw size addr)) } := rfl

theorem exec_iwDecode (h : BitVec 16) (s : State) :
    exec (.iwDecode h) s = .next { s with result := .returned (.fields (iwDecode h)) } := rfl

/-! ### The header and its fields as numbers -/

/-- Each field lies below the place of the next one, so no bit is set twice and OR is addition. -/
theorem iwEncode_toNat (rw : BitVec 1) (size : BitVec 2) (addr : Addr) :
    (iwEncode rw size addr).toNat = rw.toNat * 2 ^ 15 + size.toNat * 2 ^ 13 + addr.toNat := by
  have hrw := rw.isLt
  have hsize := size.isLt
  have low_lt : size.toNat <<< 13 + addr.toNat < 2 ^ 15 := by rw [Nat.shiftLeft_eq]; omega
  have rw_place : (rw.setWidth 16 <<< 15).toNat = rw.toNat <<< 15 := by simp [Nat.shiftLeft_eq]; omega
  have size_place : (size.setWidth 16 <<< 13).toNat = size.toNat <<< 13 := by simp [Nat.shiftLeft_eq]; omega
  have addr_place : (addr.setWidth 16).toNat = addr.toNat := BitVec.toNat_setWidth_of_le (by decide)
  calc (iwEncode rw size addr).toNat
      = rw.toNat <<< 15 ||| (size.toNat <<< 13 ||| addr.toNat) := by
        rw [iwEncode, BitVec.toNat_or, BitVec.toNat_or, rw_place, size_place, addr_place, Nat.or_assoc]
    _ = rw.toNat <<< 15 + (size.toNat <<< 13 + addr.toNat) := by
        rw [← Nat.shiftLeft_add_eq_or_of_lt addr.isLt, ← Nat.shiftLeft_add_eq_or_of_lt low_lt]
    _ = rw.toNat * 2 ^ 15 + size.toNat * 2 ^ 13 + addr.toNat := by
        rw [Nat.shiftLeft_eq, Nat.shiftLeft_eq, Nat.add_assoc]

/-- Bit 15 is the top bit: nothing above it has to be cut off. -/
theorem iwDecode_rw_toNat (h : BitVec 16) : (iwDecode h).rw.toNat = h.toNat / 2 ^ 15 := by
  have := h.isLt
  simp only [iwDecode, BitVec.extractLsb'_toNat, Nat.shiftRight_eq_div_pow]
  omega

theorem iwDecode_size_toNat (h : BitVec 16) : (iwDecode h).size.toNat = h.toNat / 2 ^ 13 % 4 := by
  simp only [iwDecode, BitVec.extractLsb'_toNat, Nat.shiftRight_eq_div_pow, Nat.reducePow]

theorem iwDecode_addr_toNat (h : BitVec 16) : (iwDecode h).addr.toNat = h.toNat % 2 ^ 13 := by
  simp only [iwDecode, BitVec.extractLsb'_toNat, Nat.shiftRight_zero]

/-- The other direction of `iwDecode_iwEncode`: the three fields cover all 16 bits, so nothing of the header is lost. -/
theorem iwEncode_iwDecode (h : BitVec 16) : iwEncode (iwDecode h).rw (iwDecode h).size (iwDecode h).addr = h := by
  apply BitVec.eq_of_toNat_eq
  rw [iwEncode_toNat, iwDecode_rw_toNat, iwDecode_size_toNat, iwDecode_addr_toNat]
  omega

/-! ### The obligations -/

/-- Settles O6: the header the instruction returns, as a number, is the sum of its shifted fields. -/
theorem iwEncodePlacesFields : Obligations.IwEncodePlacesFields := fun rw size addr s =>
  ⟨iwEncode rw size addr, iwEncode_toNat rw size addr, exec_iwEncode rw size addr s⟩

/-- Settles O7: the fields by arithmetic on the header, and the two round trips. -/
theorem iwDecodeReadsFields : Obligations.IwDecodeReadsFields :=
  ⟨fun h s => ⟨iwDecode h, iwDecode_rw_toNat h, iwDecode_size_toNat h, iwDecode_addr_toNat h, exec_iwDecode h s⟩,
    iwDecode_iwEncode, iwEncode_iwDecode⟩

end Sys2Proof
end

section
/-! The Code/Voltage Converter (40_code_voltage): the flip of the top bit keeps the low 15 bits and complements the
other one, so the signed sample of a code `c` is `c - 32768`, and the flip undoes itself. -/

namespace Sys2Proof
open Sys2Proof.Machine

/-! ### What the two instructions answer -/

theorem exec_voltage (c : Code) (s : State) :
    exec (.voltage c) s = .next { s with result := .returned (.rational (voltageOf c)) } := rfl

theorem exec_code (signedSample : BitVec 16) (s : State) :
    exec (.code signedSample) s = .next { s with result := .returned (.code (codeOf signedSample)) } := rfl

/-! ### The flip -/

theorem flipCode_flipCode (c : Code) : flipCode (flipCode c) = c := by
  rw [flipCode, flipCode, BitVec.xor_assoc, BitVec.xor_self, BitVec.xor_zero]

theorem flipCode_toNat_mod (c : Code) : (flipCode c).toNat % 2 ^ 15 = c.toNat % 2 ^ 15 := by
  rw [flipCode, BitVec.toNat_xor, Nat.xor_mod_two_pow]
  simp

theorem flipCode_toNat_div (c : Code) : (flipCode c).toNat / 2 ^ 15 = 1 - c.toNat / 2 ^ 15 := by
  have top_bit : c.toNat / 2 ^ 15 = 0 ∨ c.toNat / 2 ^ 15 = 1 := by have := c.isLt; omega
  rw [flipCode, BitVec.toNat_xor, Nat.xor_div_two_pow]
  obtain was_zero | was_one := top_bit
  · rw [was_zero]; rfl
  · rw [was_one]; rfl

/-! ### The signed sample of a code -/

/-- A code with its top bit set flips to a nonnegative sample, one with it clear to a negative sample; both ways the
value read is 32768 below the code. -/
theorem signedOf_eq (c : Code) : signedOf c = (c.toNat : Int) - 32768 := by
  have low := flipCode_toNat_mod c
  have top := flipCode_toNat_div c
  have := c.isLt
  rw [signedOf, BitVec.toInt_eq_toNat_cond]
  split <;> omega

/-- One half of the bijection of R132: the sample's pattern is the flipped code, which flips back. -/
theorem codeOf_signedOf (c : Code) : codeOf (BitVec.ofInt 16 (signedOf c)) = c := by
  rw [signedOf, BitVec.ofInt_toInt, codeOf, flipCode_flipCode]

/-- The other half: an `i16` is the value of its own 16-bit pattern. -/
theorem signedOf_codeOf {k : Int} (hlo : -32768 ≤ k) (hhi : k ≤ 32767) : signedOf (codeOf (BitVec.ofInt 16 k)) = k := by
  rw [signedOf, codeOf, flipCode_flipCode]
  exact BitVec.toInt_ofInt_eq_self (by decide) hlo (Int.lt_add_one_of_le hhi)

theorem codeOf_toNat {k : Int} (hlo : -32768 ≤ k) (hhi : k ≤ 32767) :
    ((codeOf (BitVec.ofInt 16 k)).toNat : Int) = k + 32768 := by
  have sample := signedOf_codeOf hlo hhi
  rw [signedOf_eq] at sample
  omega

/-- The constant of R130 is 1/3200 exactly. -/
theorem voltageOf_eq (c : Code) : voltageOf c = ((c.toNat : Rat) - 32768) / 3200 := by
  rw [voltageOf, signedOf_eq]
  push_cast
  ring

/-! ### The obligations -/

/-- Settles O1: the value returned is the scaled sample, in closed form. -/
theorem voltageIsScaledSignedCode : Obligations.VoltageIsScaledSignedCode := fun c s => by
  rw [exec_voltage, voltageOf_eq]

/-- Settles O2: the code of a sample as a number, and the two halves of the bijection. -/
theorem codeFlipsSampleTopBitAndIsInvertible : Obligations.CodeFlipsSampleTopBitAndIsInvertible :=
  ⟨fun k s hlo hhi => ⟨codeOf (BitVec.ofInt 16 k), codeOf_toNat hlo hhi, rfl, signedOf_codeOf hlo hhi, exec_code _ s⟩,
    flipCode_flipCode, codeOf_signedOf⟩

end Sys2Proof
end

section
/-! The Waveform Output Channel (41_waveform_channel): `start` answers by the channel's phase; a beat and the sample event
that causes it are the same engine step on a RUNNING channel, and that step is fixed by the element it reads. -/

namespace Sys2Proof
open Sys2Proof.Machine

/-! ### What the instructions answer, by the channel's phase -/

theorem exec_start_of_ready {ch : Chan} {s : State} (h : (s.chan ch).phase = .ready) :
    exec (.start ch) s =
      .next { s.setChan ch { s.chan ch with phase := .running } with result := .returned .unit } := by
  simp only [exec, execStart, h, enterRunning_eq, returnOk_eq]

theorem exec_start_of_running {ch : Chan} {s : State} (h : (s.chan ch).phase = .running) :
    exec (.start ch) s = .refused .notReady := by
  simp only [exec, execStart, h]

theorem exec_start_of_unbuilt {ch : Chan} {s : State} (h : (s.chan ch).phase = .unbuilt) :
    exec (.start ch) s = .refused .channelUnbuilt := by
  simp only [exec, execStart, h]

theorem exec_beat_of_running {ch : Chan} {s : State} (h : (s.chan ch).phase = .running) :
    exec (.beat ch) s = beatStep ch s :=
  if_pos ((isRunning_iff _).2 h)

theorem exec_sampleEvent_of_running {ch : Chan} {s : State} (h : (s.chan ch).phase = .running) :
    exec (.sampleEvent ch) s = beatStep ch s :=
  if_pos ((isRunning_iff _).2 h)

theorem exec_sampleEvent_of_not_running {ch : Chan} {s : State} (h : (s.chan ch).phase ≠ .running) :
    exec (.sampleEvent ch) s = .next s :=
  if_neg (mt (isRunning_iff _).1 h)

/-! ### The engine's step -/

/-- A beat whose element exists answers: it steps the index before the last element and completes at the last one. The
old `tc` is not read (R151). -/
theorem beat_of_bufRead {batch : Nat} {c : Channel} {v : Code} (hread : c.bufRead c.active c.idx = some v) :
    c.beat batch = some
      (if c.idx + 1 < batch then { c with out := c.out ++ [v], idx := c.idx + 1 }
       else { c with out := c.out ++ [v], idx := 0, tc := true, active := c.armed, armed := c.active }) := by
  refine (beat_eq_some_iff batch c _).2 ⟨v, hread, ?_⟩
  by_cases before_last : c.idx + 1 < batch
  · exact .inl ⟨before_last, if_pos before_last⟩
  · exact .inr ⟨before_last, if_neg before_last⟩

theorem beatStep_of_beat {ch : Chan} {s : State} {c : Channel} (h : (s.chan ch).beat s.cfg.batch = some c) :
    beatStep ch s = .next (s.setChan ch c) := by
  simp only [beatStep, h]

/-! ### The obligations -/

/-- Settles O17: on a RUNNING channel both instructions are the engine's step, and the element it reads fixes the beat. -/
theorem beatEmitsOneCodeAndCompletes : Obligations.BeatEmitsOneCodeAndCompletes := by
  intro ch s v i hi hrunning hread
  have step_eq := beatStep_of_beat (beat_of_bufRead (batch := s.cfg.batch) hread)
  obtain rfl | rfl := hi
  · exact (exec_beat_of_running hrunning).trans step_eq
  · exact (exec_sampleEvent_of_running hrunning).trans step_eq

/-- Settles O11: one clause per phase. -/
theorem startChangesPhaseOnly : Obligations.StartChangesPhaseOnly := fun _ _ =>
  ⟨exec_start_of_ready, exec_start_of_running, exec_start_of_unbuilt⟩

/-- Settles O18: only a RUNNING channel's event reaches the engine. -/
theorem eventBeforeStartIsDropped : Obligations.EventBeforeStartIsDropped := fun _ _ => exec_sampleEvent_of_not_running

end Sys2Proof
end

section
/-! The numeric conversions (44_numeric_conversions): each one rounds its formula and stores the rounded value (R221), so
what `storeWord` answers on a value that fits, on a tuning word too large and on any other value settles them all. -/

namespace Sys2Proof
open Sys2Proof.Machine

/-! ### What the instructions answer -/

theorem exec_sysclk (refclk : Rat) (refDoubler : Bool) (ndiv : Nat) (s : State) :
    exec (.sysclk refclk refDoubler ndiv) s =
      .next { s with result := .returned (.rational (sysclkOf refclk refDoubler ndiv)) } := rfl

theorem exec_storeN (w : StoreWidth) (r : Int) (s : State) :
    exec (.storeN w r) s = returnIf .conversionRange ((storeWord w r).map .word) s := rfl

theorem exec_frequencyToFtw (frequency systemClock : Rat) (s : State) :
    exec (.frequencyToFtw frequency systemClock) s =
      returnIf .conversionRange ((ftwOf frequency systemClock).map .ftw) s := rfl

theorem exec_phaseToPow (phase : Rat) (s : State) :
    exec (.phaseToPow phase) s = returnIf .conversionRange ((powOf phase).map .pow) s := rfl

theorem exec_fsToFsc (dacFs rDacRef : Rat) (s : State) :
    exec (.fsToFsc dacFs rDacRef) s = returnIf .conversionRange ((fscOf dacFs rDacRef).map .fsc) s := rfl

section
variable {α : Type} {word : Option α} (why : Refusal) (asValue : α → Value) (s : State)

/-- A conversion that has a word returns it, under the kind of value it is. -/
theorem returnIf_map_of_eq_some {a : α} (h : word = some a) :
    returnIf why (word.map asValue) s = .next { s with result := .returned (asValue a) } := by
  rw [h]; rfl

theorem returnIf_map_of_eq_none (h : word = none) : returnIf why (word.map asValue) s = .refused why := by
  rw [h]; rfl

end

/-! ### `store_N` (R221) -/

theorem storeWord_of_fits {w : StoreWidth} {r : Int} (hlo : 0 ≤ r) (hhi : r < 2 ^ w.bits) :
    storeWord w r = some r.toNat :=
  if_pos ⟨hlo, hhi⟩

theorem storeWord_w48_of_too_large {r : Int} (h : 2 ^ 48 ≤ r) : storeWord .w48 r = some (r.toNat % 2 ^ 48) := by
  have not_fits : ¬ (0 ≤ r ∧ r < 2 ^ StoreWidth.bits .w48) := fun fits => Int.not_lt.2 h fits.2
  rw [storeWord, if_neg not_fits, if_pos ⟨rfl, h⟩]

/-- Only a tuning word may be too large; a negative value has no word of any width. -/
theorem storeWord_of_out_of_range {w : StoreWidth} {r : Int} (h : r < 0 ∨ (w ≠ .w48 ∧ 2 ^ w.bits ≤ r)) :
    storeWord w r = none := by
  have not_fits : ¬ (0 ≤ r ∧ r < 2 ^ w.bits) := by
    rintro ⟨hlo, hhi⟩
    obtain negative | ⟨-, too_large⟩ := h
    · exact Int.not_lt.2 hlo negative
    · exact Int.not_lt.2 too_large hhi
  have not_truncated : ¬ (w = .w48 ∧ 2 ^ 48 ≤ r) := by
    rintro ⟨is_tuning_word, hhi⟩
    obtain negative | ⟨other_width, -⟩ := h
    · omega
    · exact other_width is_tuning_word
  rw [storeWord, if_neg not_fits, if_neg not_truncated]

/-! ### The stored value as a word of its width -/

theorem storedWord_of_fits (w : StoreWidth) {r : Int} (hlo : 0 ≤ r) (hhi : r < 2 ^ w.bits) :
    ∃ b : BitVec w.bits, (b.toNat : Int) = r ∧ (storeWord w r).map (BitVec.ofNat w.bits) = some b := by
  have no_bit_lost : r.toNat < 2 ^ w.bits := (Int.toNat_lt hlo).2 (by exact_mod_cast hhi)
  refine ⟨BitVec.ofNat w.bits r.toNat, ?_, by rw [storeWord_of_fits hlo hhi, Option.map_some]⟩
  rw [BitVec.toNat_ofNat, Nat.mod_eq_of_lt no_bit_lost, Int.toNat_of_nonneg hlo]

/-- A tuning word that is not negative always has a word: itself, or its low 48 bits. -/
theorem storedWord_w48_of_nonneg {r : Int} (hlo : 0 ≤ r) :
    ∃ b : BitVec 48, (b.toNat : Int) = r % 2 ^ 48 ∧ (storeWord .w48 r).map (BitVec.ofNat 48) = some b := by
  obtain fits | too_large := lt_or_ge r (2 ^ 48)
  · obtain ⟨b, value_eq, stored⟩ := storedWord_of_fits .w48 hlo fits
    exact ⟨b, value_eq.trans (Int.emod_eq_of_lt hlo fits).symm, stored⟩
  · refine ⟨BitVec.ofNat 48 (r.toNat % 2 ^ 48), ?_, by rw [storeWord_w48_of_too_large too_large, Option.map_some]⟩
    rw [BitVec.toNat_ofNat, Nat.mod_mod]
    omega

theorem storedWord_of_out_of_range {w : StoreWidth} {r : Int} (h : r < 0 ∨ (w ≠ .w48 ∧ 2 ^ w.bits ≤ r)) :
    (storeWord w r).map (BitVec.ofNat w.bits) = none := by
  rw [storeWord_of_out_of_range h, Option.map_none]

/-- What a conversion into a phase or current word answers: no width but the tuning word's truncates, so the word is the
value where it fits, and there is none where it does not. -/
theorem returnIf_storedWord_of_ne_w48 {w : StoreWidth} (hw : w ≠ .w48) (r : Int) (asValue : BitVec w.bits → Value)
    (s : State) :
    (0 ≤ r → r < 2 ^ w.bits →
      ∃ b : BitVec w.bits, (b.toNat : Int) = r ∧ (storeWord w r).map (BitVec.ofNat w.bits) = some b ∧
        returnIf .conversionRange (((storeWord w r).map (BitVec.ofNat w.bits)).map asValue) s =
          .next { s with result := .returned (asValue b) }) ∧
    (r < 0 ∨ 2 ^ w.bits ≤ r →
      (storeWord w r).map (BitVec.ofNat w.bits) = none ∧
        returnIf .conversionRange (((storeWord w r).map (BitVec.ofNat w.bits)).map asValue) s =
          .refused .conversionRange) := by
  constructor
  · intro hlo hhi
    obtain ⟨b, value_eq, stored⟩ := storedWord_of_fits w hlo hhi
    exact ⟨b, value_eq, stored, returnIf_map_of_eq_some _ _ _ stored⟩
  · intro out
    have no_word := storedWord_of_out_of_range (out.imp_right (.intro hw))
    exact ⟨no_word, returnIf_map_of_eq_none _ _ _ no_word⟩

/-! ### The full-scale current's constants -/

/-- The source's decimal constants (R228) are 40/9 and 384 exactly. -/
theorem fscOf_eq (dacFs rDacRef : Rat) :
    fscOf dacFs rDacRef = (storeWord .w10 (roundQ (dacFs * rDacRef * (40 / 9) + 384))).map (BitVec.ofNat 10) := by
  have slope : (1024 / 192 / 1.2 : Rat) = 40 / 9 := by norm_num
  have offset : (1024 / 192 * 72 : Rat) = 384 := by norm_num
  rw [fscOf, slope, offset]

/-! ### The obligations -/

/-- Settles O46: the factor of the doubler and the factor 2 of R220 make 2 and 4. -/
theorem sysclkFollowsThePllFormula : Obligations.SysclkFollowsThePllFormula := by
  intro refclk ndiv s
  have undoubled : sysclkOf refclk false ndiv = 2 * refclk * ((ndiv : Rat) + 2) := by
    simp only [sysclkOf, Bool.false_eq_true, if_false]; ring
  have doubled : sysclkOf refclk true ndiv = 4 * refclk * ((ndiv : Rat) + 2) := by
    simp only [sysclkOf, if_true]; ring
  rw [exec_sysclk, exec_sysclk, undoubled, doubled]
  exact ⟨rfl, rfl⟩

/-- Settles O48: one clause per answer of `storeWord`. -/
theorem storeNFitsTruncatesOrRefuses : Obligations.StoreNFitsTruncatesOrRefuses := by
  intro w r s
  rw [exec_storeN]
  refine ⟨fun hlo hhi => ?fits, ?too_large, fun out => ?out_of_range⟩
  case fits => exact returnIf_map_of_eq_some _ _ _ (storeWord_of_fits hlo hhi)
  case too_large =>
    rintro rfl hlarge
    exact returnIf_map_of_eq_some _ _ _ (storeWord_w48_of_too_large hlarge)
  case out_of_range => exact returnIf_map_of_eq_none _ _ _ (storeWord_of_out_of_range out)

/-- Settles O49: a rounded value that is not negative has a tuning word, by truncation if need be; a negative one has
none. -/
theorem frequencyToFtwFollowsTheLiteralFormula : Obligations.FrequencyToFtwFollowsTheLiteralFormula := by
  intro f clk s
  rw [exec_frequencyToFtw]
  constructor
  · intro nonneg
    obtain ⟨w, value_eq, stored⟩ := storedWord_w48_of_nonneg nonneg
    exact ⟨w, value_eq, stored, returnIf_map_of_eq_some _ _ _ stored⟩
  · intro negative
    have no_word : ftwOf f clk = none := storedWord_of_out_of_range (w := .w48) (.inl negative)
    exact ⟨no_word, returnIf_map_of_eq_none _ _ _ no_word⟩

/-- Settles O50: both are the clauses of a width that does not truncate, for the rounded formula. -/
theorem phaseAndCurrentWordsFollowTheLiteralFormulas : Obligations.PhaseAndCurrentWordsFollowTheLiteralFormulas := by
  intro x y s
  rw [exec_phaseToPow, exec_fsToFsc, fscOf_eq]
  obtain ⟨pow_fits, pow_refused⟩ := returnIf_storedWord_of_ne_w48 (w := .w14) (by decide) (roundQ (x / 2 ^ 14)) .pow s
  obtain ⟨fsc_fits, fsc_refused⟩ :=
    returnIf_storedWord_of_ne_w48 (w := .w10) (by decide) (roundQ (x * y * (40 / 9) + 384)) .fsc s
  exact ⟨pow_fits, pow_refused, fsc_fits, fsc_refused⟩

end Sys2Proof
end

section
/-! The encoding of requests (30_encoding sections 1, 2 and 4): a frame decodes by its header's fields, which survive the
two bytes in both directions, and an OP row is issued as itself. -/

namespace Sys2Proof
open Sys2Proof.Machine

/-! ### Headers and their two bytes -/

/-- The other direction of `headerOfBytes_headerBytes`: two bytes are the bytes of the header they form. -/
theorem headerBytes_headerOfBytes (a b : Byte) : headerBytes (headerOfBytes [a, b]) = [a, b] := by
  have ha := a.isLt
  have hb := b.isLt
  have value : (headerOfBytes [a, b]).toNat = a.toNat * 256 + b.toNat := by
    simp [headerOfBytes, fromBe]
    omega
  simp only [headerBytes, beBytes, value, List.cons.injEq, and_true]
  constructor <;> apply BitVec.eq_of_toNat_eq <;> simp <;> omega

/-! ### Frames -/

theorem headerBytes_pair (h : BitVec 16) : ∃ a b, headerBytes h = [a, b] ∧ headerOfBytes [a, b] = h :=
  ⟨_, _, rfl, headerOfBytes_headerBytes h⟩

theorem decode_writeFrame (size : BitVec 2) (addr : Addr) (p : List Byte) :
    decode (writeFrame size addr p) = decodeWrite size addr p := by
  obtain ⟨a, b, bytes, header⟩ := headerBytes_pair (iwEncode 0#1 size addr)
  simp only [writeFrame, decode, decodeFrame, bytes, header, iwDecode_iwEncode, if_true]

theorem decode_readFrame (size : BitVec 2) (addr : Addr) (n : Nat) :
    decode (readFrame size addr n) = decodeRead size addr n := by
  obtain ⟨a, b, bytes, header⟩ := headerBytes_pair (iwEncode 1#1 size addr)
  simp only [readFrame, decode, decodeFrame, bytes, header, iwDecode_iwEncode, if_true]

/-- A stream of four bytes or more is the stream form with just that payload. -/
theorem decodeWrite_stream (addr : Addr) {p : List Byte} (h : 4 ≤ p.length) :
    decodeWrite 3#2 addr p = .ok (.ddsWrs addr p) := by
  match p, h with
  | _ :: _ :: _ :: _ :: _, _ => rfl

theorem decodeRead_stream (addr : Addr) {n : Nat} (h : 4 ≤ n) : decodeRead 3#2 addr n = .ok (.ddsRds addr n) := by
  match n, h with
  | _ + 4, _ => rfl

theorem eq_ofNat_of_toNat_eq {size : BitVec 2} {k : Nat} (h : size.toNat = k) : size = BitVec.ofNat 2 k := by
  rw [← h, BitVec.ofNat_toNat, BitVec.setWidth_eq]

/-- A write form that a frame decodes to is issued by a frame with the same three parts: the form fixes the size class. -/
theorem encode_of_decodeWrite {size : BitVec 2} {addr : Addr} {p : List Byte} {i : Instr}
    (h : decodeWrite size addr p = .ok i) : encode i = writeFrame size addr p := by
  unfold decodeWrite at h
  split at h
  case h_5 => cases h
  all_goals
    rename_i size_eq
    obtain rfl := eq_ofNat_of_toNat_eq size_eq
    cases h
    rfl

theorem encode_of_decodeRead {size : BitVec 2} {addr : Addr} {n : Nat} {i : Instr}
    (h : decodeRead size addr n = .ok i) : encode i = readFrame size addr n := by
  unfold decodeRead at h
  split at h
  case h_5 => cases h
  all_goals
    rename_i size_eq
    obtain rfl := eq_ofNat_of_toNat_eq size_eq
    cases h
    rfl

/-- Two header bytes are the bytes of the header with their own three fields. -/
theorem headerBytes_of_fields (a b : Byte) {rw : BitVec 1} (h : (iwDecode (headerOfBytes [a, b])).rw = rw) :
    headerBytes (iwEncode rw (iwDecode (headerOfBytes [a, b])).size (iwDecode (headerOfBytes [a, b])).addr) =
      [a, b] := by
  rw [← h, iwEncode_iwDecode, headerBytes_headerOfBytes]

/-- A frame that decodes has a header of two bytes, in the direction of its second part. -/
theorem encode_of_decodeFrame {header : List Byte} {part : BusPart} {i : Instr}
    (h : decodeFrame header part = .ok i) : encode i = .frame header part := by
  match header, part with
  | [a, b], .w p =>
    simp only [decodeFrame] at h
    split at h
    case isTrue is_write => rw [encode_of_decodeWrite h, writeFrame, headerBytes_of_fields a b is_write]
    case isFalse => cases h
  | [a, b], .r n =>
    simp only [decodeFrame] at h
    split at h
    case isTrue is_read => rw [encode_of_decodeRead h, readFrame, headerBytes_of_fields a b is_read]
    case isFalse => cases h
  | [], _ | [_], _ | _ :: _ :: _ :: _, _ => cases h

/-! ### Calls by name -/

/-- The eight forms of the Instruction Word are the only rows that are not issued by name. -/
theorem encode_of_op {i : Instr} (h : i.format = .op) : encode i = .call i := by
  cases i with
  | ddsWr1 | ddsWr2 | ddsWr3 | ddsWrs | ddsRd1 | ddsRd2 | ddsRd3 | ddsRds => cases h
  | _ => rfl

theorem decodeCall_eq_ok_iff (i j : Instr) : decodeCall i = .ok j ↔ i.format = .op ∧ i.agent = .sw ∧ j = i := by
  unfold decodeCall
  cases i.format <;> cases i.agent <;> simp [eq_comm]

theorem decode_encode_of_op {i : Instr} (hf : i.format = .op) (ha : i.agent = .sw) : decode (encode i) = .ok i := by
  rw [encode_of_op hf]
  exact (decodeCall_eq_ok_iff i i).2 ⟨hf, ha, rfl⟩

/-! ### The obligations -/

/-- Settles O52: a form goes through its frame, every other caller's instruction is its own request. -/
theorem decodeOfEncodeIsTheInstruction : Obligations.DecodeOfEncodeIsTheInstruction := by
  intro i hwf hsw
  cases i with
  | ddsWr1 | ddsWr2 | ddsWr3 => exact decode_writeFrame _ _ _
  | ddsRd1 | ddsRd2 | ddsRd3 => exact decode_readFrame _ _ _
  | ddsWrs addr p => exact (decode_writeFrame 3#2 addr p).trans (decodeWrite_stream addr (of_decide_eq_true hwf))
  | ddsRds addr n => exact (decode_readFrame 3#2 addr n).trans (decodeRead_stream addr (of_decide_eq_true hwf))
  | _ => exact decode_encode_of_op rfl hsw

/-- Settles O53: by the shape of the request, a frame or a call. -/
theorem encodeOfDecodeIsTheRequest : Obligations.EncodeOfDecodeIsTheRequest := by
  intro r i h
  cases r with
  | frame header part => exact encode_of_decodeFrame h
  | call j =>
    obtain ⟨hf, -, rfl⟩ := (decodeCall_eq_ok_iff j i).1 h
    exact encode_of_op hf

/-- Settles O54: five closed frames. -/
theorem knownFramesDecode : Obligations.KnownFramesDecode := by
  unfold Obligations.KnownFramesDecode
  decide

end Sys2Proof
end

section
/-! What an instruction about no channel can do, said once (20_memory R75): it is refused, or it is one of seven runs,
each at most one bus transaction, picked by the parameters and the DDS engine alone. Frames, the invariant of the DDS
side and the independence of the channels are then seven cases each. -/

namespace Sys2Proof
open Sys2Proof.Machine

/-- The runs of the instructions about no channel: a value, a primitive, or the first transaction of an operation. Only a
`set_pll` under way needs `dds.inited` to be known (43_dds_operations R201). -/
inductive NoChannelRun (inited : Bool) : (State → State) → Prop
  | value (v : Value) : NoChannelRun inited (·.returnValue v)
  | write (h : BitVec 16) (p : List Byte) : NoChannelRun inited (writeStep h p returnOk)
  | read (h : BitVec 16) (n : Nat) : NoChannelRun inited (readInto h n)
  | init (h : BitVec 16) (p : List Byte) :
      NoChannelRun inited fun s => writeStep h p (·.enterOp .initReadId) s.leaveOp
  | softReset (h : BitVec 16) (p : List Byte) :
      NoChannelRun inited fun s => writeStep h p returnOk (s.setInited false)
  | setter (h : BitVec 16) (p : List Byte) (v : Value) : NoChannelRun inited (setterStep h p (·.returnValue v))
  | setPll (h : BitVec 16) (p : List Byte) (pllConfig : Byte) (hin : inited = true) :
      NoChannelRun inited fun s => setterStep h p (·.enterOp (.pllControl pllConfig)) s.leaveOp

/-- A meaning `f` at `s`: a refusal, or one run, which it is in every state with the parameters and the engine of `s`. -/
def RefusesOrRuns (f : State → Host.Outcome State Fault Refusal) (s : State) : Prop :=
  (∃ why, f s = .refused why) ∨
    ∃ run, NoChannelRun s.dds.inited run ∧ ∀ u : State, u.cfg = s.cfg → u.dds = s.dds → f u = .next (run u)

/-! ### The shapes the meanings share -/

theorem refusesOrRuns_of_run {f : State → Host.Outcome State Fault Refusal} {s : State} {run : State → State}
    (hrun : NoChannelRun s.dds.inited run) (hf : ∀ u : State, u.cfg = s.cfg → f u = .next (run u)) :
    RefusesOrRuns f s :=
  .inr ⟨run, hrun, fun u hcfg _ => hf u hcfg⟩

theorem refusesOrRuns_returnIf (why : Refusal) (v : Option Value) (s : State) : RefusesOrRuns (returnIf why v) s := by
  cases v with
  | none => exact .inl ⟨why, rfl⟩
  | some x => exact refusesOrRuns_of_run (.value x) fun _ _ => rfl

/-- An operation may take its register's address from the parameters, which `run` holds fixed. -/
theorem refusesOrRuns_whenInited {op run : State → State} {s : State} (hrun : NoChannelRun true run)
    (hop : ∀ u : State, u.cfg = s.cfg → op u = run u) : RefusesOrRuns (whenInited op) s := by
  cases hin : s.dds.inited with
  | false => exact .inl ⟨.notInitialised, by simp [whenInited, hin]⟩
  | true => exact .inr ⟨run, hin ▸ hrun, fun u hcfg hdds => by simp [whenInited, hdds, hin, hop u hcfg]⟩

theorem refusesOrRuns_programWord {α : Type} {word : Option α} {op run : α → State → State} {s : State}
    (hrun : ∀ w, NoChannelRun true (run w)) (hop : ∀ w, ∀ u : State, u.cfg = s.cfg → op w u = run w u) :
    RefusesOrRuns (programWord word op) s := by
  cases word with
  | none => cases hin : s.dds.inited <;> exact .inl ⟨_, by simp only [programWord, hin]; rfl⟩
  | some w => exact refusesOrRuns_whenInited (hrun w) (hop w)

theorem refusesOrRuns_execWrite (addr : Addr) (p : List Byte) (s : State) : RefusesOrRuns (execWrite addr p) s := by
  cases hh : headerFor addr (.w p) with
  | none => exact .inl ⟨.emptyPayload, by simp only [execWrite, hh]⟩
  | some h => exact refusesOrRuns_of_run (.write h p) fun u _ => by simp only [execWrite, hh]

theorem refusesOrRuns_execRead (addr : Addr) (n : Nat) (s : State) : RefusesOrRuns (execRead addr n) s := by
  cases hh : headerFor addr (.r n) with
  | none => exact .inl ⟨.emptyPayload, by simp only [execRead, hh]⟩
  | some h => exact refusesOrRuns_of_run (.read h n) fun u _ => by simp only [execRead, hh]

theorem refusesOrRuns_execDdsWrs (addr : Addr) (p : List Byte) (s : State) : RefusesOrRuns (execDdsWrs addr p) s := by
  by_cases long : 4 ≤ p.length
  · exact refusesOrRuns_of_run (.write _ p) fun u _ => if_pos long
  · exact .inl ⟨.shortStream, if_neg long⟩

theorem refusesOrRuns_execDdsRds (addr : Addr) (n : Nat) (s : State) : RefusesOrRuns (execDdsRds addr n) s := by
  by_cases long : 4 ≤ n
  · exact refusesOrRuns_of_run (.read _ n) fun u _ => if_pos long
  · exact .inl ⟨.shortStream, if_neg long⟩

/-! ### The instructions -/

/-- One case per instruction about no channel. -/
theorem exec_refusesOrRuns {i : Instr} (hi : instrChannel i = none) (s : State) : RefusesOrRuns (exec i) s := by
  cases i with
  | construct | start | acquireBuffer | fill | peek | beat | sampleEvent => cases hi
  | ddsWr1 | ddsWr2 | ddsWr3 => exact refusesOrRuns_of_run (.write _ _) fun _ _ => rfl
  | ddsRd1 | ddsRd2 | ddsRd3 => exact refusesOrRuns_of_run (.read _ _) fun _ _ => rfl
  | ddsWrs addr p => exact refusesOrRuns_execDdsWrs addr p s
  | ddsRds addr n => exact refusesOrRuns_execDdsRds addr n s
  | write addr p => exact refusesOrRuns_execWrite addr p s
  | read addr n => exact refusesOrRuns_execRead addr n s
  | voltage | code | mirror | iwEncode | iwDecode | sysclk | powToPhase =>
    exact refusesOrRuns_of_run (.value _) fun _ _ => rfl
  | frequencyToFtw | phaseToPow | fsToFsc | storeN | ftwToFrequency | fscToFs | sysclkToNdiv =>
    exact refusesOrRuns_returnIf _ _ s
  | init =>
    refine refusesOrRuns_of_run (.init (iwEncode 0#1 0#2 s.cfg.addrSerial) [mirrorOf s.cfg.serialInit]) fun u hcfg => ?_
    rw [← hcfg]; rfl
  | softReset =>
    refine refusesOrRuns_whenInited
      (.softReset (iwEncode 0#1 0#2 s.cfg.addrSerial) [mirrorOf s.cfg.serialReset]) fun u hcfg => ?_
    rw [← hcfg]; rfl
  | ddsReset =>
    refine refusesOrRuns_whenInited (.setter (iwEncode 0#1 0#2 s.cfg.addrDdsReset) [1#8] .unit) fun u hcfg => ?_
    rw [← hcfg]; rfl
  | setPll divider pllConfig =>
    refine refusesOrRuns_whenInited
      (.setPll (iwEncode 0#1 0#2 s.cfg.addrNdiv) [divider] pllConfig rfl) fun u hcfg => ?_
    rw [← hcfg]; rfl
  | setFtw w => exact refusesOrRuns_whenInited (.setter _ (ftwImage w) .unit) fun _ _ => rfl
  | setFrequency => exact refusesOrRuns_programWord (fun w => .setter _ (ftwImage w.toNat) (.ftw w)) fun _ _ _ => rfl
  | setPow w =>
    refine refusesOrRuns_whenInited (.setter (iwEncode 0#1 1#2 s.cfg.addrPow) (powImage w) .unit) fun u hcfg => ?_
    rw [← hcfg]; rfl
  | setPhase =>
    refine refusesOrRuns_programWord
      (fun w => .setter (iwEncode 0#1 1#2 s.cfg.addrPow) (powImage w) (.pow w)) fun w u hcfg => ?_
    rw [← hcfg]
  | setFsc w =>
    refine refusesOrRuns_whenInited (.setter (iwEncode 0#1 1#2 s.cfg.addrFsc) (fscImage w) .unit) fun u hcfg => ?_
    rw [← hcfg]; rfl
  | setFullScaleCurrent =>
    refine refusesOrRuns_programWord
      (fun w => .setter (iwEncode 0#1 1#2 s.cfg.addrFsc) (fscImage w) (.fsc w)) fun w u hcfg => ?_
    rw [← hcfg]

/-- The same for a call that answered. -/
theorem exec_next_runs {i : Instr} {s t : State} (hi : instrChannel i = none) (h : exec i s = .next t) :
    ∃ run, NoChannelRun s.dds.inited run ∧ t = run s ∧
      ∀ u : State, u.cfg = s.cfg → u.dds = s.dds → exec i u = .next (run u) := by
  obtain ⟨why, refused⟩ | ⟨run, hrun, runs⟩ := exec_refusesOrRuns hi s
  · rw [h] at refused; cases refused
  · have answer := runs s rfl rfl
    rw [h] at answer
    exact ⟨run, hrun, Host.Outcome.next.inj answer, runs⟩

theorem exec_ne_fault_of_no_channel {i : Instr} (hi : instrChannel i = none) (s : State) (r : Fault) :
    exec i s ≠ .fault r := by
  intro fault
  obtain ⟨why, refused⟩ | ⟨run, -, runs⟩ := exec_refusesOrRuns hi s
  · rw [fault] at refused; cases refused
  · have answer := runs s rfl rfl
    rw [fault] at answer; cases answer

/-! ### What a run leaves alone -/

/-- Everything but the engine, its place in an operation, the device, the draws and what the caller is handed. -/
theorem noChannelRun_frame {b : Bool} {run : State → State} (hrun : NoChannelRun b run) (s : State) :
    ∃ dds op dev draws n r buf, run s =
      { s with dds := dds, ddsOp := op, dev := dev, busDraws := draws, draws := n, result := r, outBuf := buf } := by
  cases hrun with
  | value v => exact ⟨_, _, _, _, _, _, _, rfl⟩
  | write h p =>
    obtain ⟨_, _, _, _, frame⟩ := writeStep_frame h p returnOk s fun u => ⟨_, _, _, _, rfl⟩
    exact ⟨_, _, _, _, _, _, _, frame⟩
  | read h n =>
    obtain ⟨dev, r, frame⟩ := busTransaction_frame (headerBytes h) (.r n) s
    unfold readInto
    match hb : busTransaction (headerBytes h) (.r n) s with
    | (.error e, s') => rw [hb] at frame; subst frame; exact ⟨_, _, _, _, _, _, _, rfl⟩
    | (.ok bytes, s') => rw [hb] at frame; subst frame; exact ⟨_, _, _, _, _, _, _, rfl⟩
  | init h p =>
    obtain ⟨_, _, _, _, frame⟩ := writeStep_frame h p (·.enterOp .initReadId) s.leaveOp fun u => ⟨_, _, _, _, rfl⟩
    exact ⟨_, _, _, _, _, _, _, frame⟩
  | softReset h p =>
    obtain ⟨_, _, _, _, frame⟩ := writeStep_frame h p returnOk (s.setInited false) fun u => ⟨_, _, _, _, rfl⟩
    exact ⟨_, _, _, _, _, _, _, frame⟩
  | setter h p v =>
    obtain ⟨_, _, _, _, frame⟩ := setterStep_frame h p (·.returnValue v) s fun u => ⟨_, _, _, _, rfl⟩
    exact ⟨_, _, _, _, _, _, _, frame⟩
  | setPll h p c =>
    obtain ⟨_, _, _, _, frame⟩ :=
      setterStep_frame h p (·.enterOp (.pllControl c)) s.leaveOp fun u => ⟨_, _, _, _, rfl⟩
    exact ⟨_, _, _, _, _, _, _, frame⟩

/-! ### A run and a channel update come to the same in either order -/

/-- A part of an operation that neither reads nor writes a channel. -/
def IgnoresChannels (run : State → State) : Prop :=
  ∀ (s : State) (ch : Chan) (c : Channel), run (s.setChan ch c) = (run s).setChan ch c

theorem ignoresChannels_comp {f g : State → State} (hg : IgnoresChannels g) (hf : IgnoresChannels f) :
    IgnoresChannels fun s => g (f s) := fun s ch c =>
  (congrArg g (hf s ch c)).trans (hg (f s) ch c)

theorem returnValue_ignoresChannels (v : Value) : IgnoresChannels (·.returnValue v) := fun _ ch _ => by cases ch <;> rfl
theorem raiseBusError_ignoresChannels (e : TransportError) : IgnoresChannels (·.raiseBusError e) := fun _ ch _ => by
  cases ch <;> rfl
theorem enterOp_ignoresChannels (o : OpStep) : IgnoresChannels (·.enterOp o) := fun _ ch _ => by cases ch <;> rfl
theorem leaveOp_ignoresChannels : IgnoresChannels State.leaveOp := fun _ ch _ => by cases ch <;> rfl
theorem setInited_ignoresChannels (b : Bool) : IgnoresChannels (·.setInited b) := fun _ ch _ => by cases ch <;> rfl
theorem initDone_ignoresChannels : IgnoresChannels fun s => returnOk s.initDone := fun _ ch _ => by cases ch <;> rfl

theorem writeStep_ignoresChannels (h : BitVec 16) (p : List Byte) {next : State → State}
    (hn : IgnoresChannels next) : IgnoresChannels (writeStep h p next) := by
  intro s ch c
  unfold writeStep
  rw [busTransaction_setChan]
  match busTransaction (headerBytes h) (.w p) s with
  | (.error e, s') => exact raiseBusError_ignoresChannels e s' ch c
  | (.ok _, s') => exact hn s' ch c

theorem readStep_ignoresChannels (h : BitVec 16) (n : Nat) {next : List Byte → State → State}
    (hn : ∀ bytes, IgnoresChannels (next bytes)) : IgnoresChannels (readStep h n next) := by
  intro s ch c
  unfold readStep
  rw [busTransaction_setChan]
  match busTransaction (headerBytes h) (.r n) s with
  | (.error e, s') => exact raiseBusError_ignoresChannels e s' ch c
  | (.ok bytes, s') => exact hn bytes s' ch c

theorem readInto_ignoresChannels (h : BitVec 16) (n : Nat) : IgnoresChannels (readInto h n) := by
  intro s ch c
  unfold readInto
  rw [busTransaction_setChan]
  match busTransaction (headerBytes h) (.r n) s with
  | (.error e, s') => cases ch <;> rfl
  | (.ok bytes, s') => cases ch <;> rfl

theorem setterStep_ignoresChannels (h : BitVec 16) (p : List Byte) {next : State → State}
    (hn : IgnoresChannels next) : IgnoresChannels (setterStep h p next) := by
  intro s ch c
  have unfolded := writeStep_ignoresChannels h p hn s ch c
  unfold setterStep
  rw [setChan_dev, unfolded]
  split
  · cases ch <;> rfl
  · rfl

theorem noChannelRun_ignoresChannels {b : Bool} {run : State → State} (hrun : NoChannelRun b run) :
    IgnoresChannels run := by
  cases hrun with
  | value v => exact returnValue_ignoresChannels v
  | write h p => exact writeStep_ignoresChannels h p (returnValue_ignoresChannels .unit)
  | read h n => exact readInto_ignoresChannels h n
  | init h p =>
    exact ignoresChannels_comp (writeStep_ignoresChannels h p (enterOp_ignoresChannels _)) leaveOp_ignoresChannels
  | softReset h p =>
    exact ignoresChannels_comp (writeStep_ignoresChannels h p (returnValue_ignoresChannels .unit))
      (setInited_ignoresChannels false)
  | setter h p v => exact setterStep_ignoresChannels h p (returnValue_ignoresChannels v)
  | setPll h p pllConfig =>
    exact ignoresChannels_comp (setterStep_ignoresChannels h p (enterOp_ignoresChannels _)) leaveOp_ignoresChannels

theorem continueOp_ignoresChannels (o : OpStep) : IgnoresChannels (·.continueOp o) := by
  intro s ch c
  have left := leaveOp_ignoresChannels s ch c
  cases o with
  | initReadId =>
    simp only [State.continueOp, left, initReadId, setChan_cfg]
    refine readStep_ignoresChannels _ _ (fun bytes s' ch c => ?_) s.leaveOp ch c
    rw [apply_ite (fun u : State => u.setChan ch c)]
    cases ch <;> rfl
  | initPower =>
    simp only [State.continueOp, left, initPower, setChan_cfg]
    exact writeStep_ignoresChannels _ _ initDone_ignoresChannels s.leaveOp ch c
  | pllControl pllConfig =>
    simp only [State.continueOp, left, setPllControl, setChan_cfg]
    exact setterStep_ignoresChannels _ _ (returnValue_ignoresChannels .unit) s.leaveOp ch c

end Sys2Proof
end

section
/-! What an instruction about a channel can do, said once (41_waveform_channel): it changes that channel by one of seven
steps, the caller's hold and the result, and nothing else. The channel invariant, the ownership of the buffers and the
independence of the channels are read off from it. -/

namespace Sys2Proof
open Sys2Proof.Machine

/-! ### One step of a channel -/

/-- The steps of a channel `c`, each with the condition it is taken under (R140 to R152). -/
inductive ChannelStep (batch : Nat) (c : Channel) : Channel → Prop
  | same : ChannelStep batch c c
  | construct (hphase : c.phase = .unbuilt) : ChannelStep batch c (Channel.constructed batch)
  | start (hphase : c.phase = .ready) : ChannelStep batch c { c with phase := .running }
  | acquire (hphase : c.phase ≠ .unbuilt) (htc : c.tc = true) : ChannelStep batch c
      { c with tc := false, filling := c.armed, armed := c.filling, swRef := some c.armed }
  | fill (b : BufId) (i : Nat) (v : Code) (hphase : c.phase ≠ .unbuilt) (href : c.swRef = some b) :
      ChannelStep batch c (c.setBuf b ((c.buf b).set i v))
  | beat (v : Code) (hphase : c.phase = .running) (hidx : c.idx + 1 < batch) :
      ChannelStep batch c { c with out := c.out ++ [v], idx := c.idx + 1 }
  | complete (v : Code) (hphase : c.phase = .running) : ChannelStep batch c
      { c with out := c.out ++ [v], tc := true, idx := 0, active := c.armed, armed := c.active }

theorem channelStep_of_beat {batch : Nat} {c c' : Channel} (hphase : c.phase = .running)
    (h : c.beat batch = some c') : ChannelStep batch c c' := by
  obtain ⟨v, -, ⟨hidx, rfl⟩ | ⟨-, rfl⟩⟩ := (beat_eq_some_iff batch c c').1 h
  · exact .beat v hphase hidx
  · exact .complete v hphase

theorem channelStep_built {batch : Nat} {c c' : Channel} (h : ChannelStep batch c c') (hc : c.phase ≠ .unbuilt) :
    c'.phase ≠ .unbuilt := by
  cases h with
  | same | acquire | beat | complete => exact hc
  | construct | start => nofun
  | fill b => cases b <;> exact hc

theorem setBuf_set_lengths (c : Channel) (b : BufId) (i : Nat) (v : Code) (d : BufId) :
    ((c.setBuf b ((c.buf b).set i v)).buf d).length = (c.buf d).length := by
  by_cases hd : d = b
  · rw [hd, buf_setBuf_same, List.length_set]
  · rw [buf_setBuf_other _ _ _ _ hd]

/-- A fill keeps every field but the buffers, and those keep their lengths. -/
theorem builtInv_setBuf_set {batch : Nat} {c : Channel} (h : c.BuiltInv batch) (b : BufId) (i : Nat) (v : Code) :
    (c.setBuf b ((c.buf b).set i v)).BuiltInv batch := by
  have hlen := fun d => (setBuf_set_lengths c b i v d).trans (builtInv_buf_length batch c h d)
  obtain ⟨hroles, -, -, -, hrest⟩ := h
  cases b <;> exact ⟨hroles, hlen .b0, hlen .b1, hlen .b2, hrest⟩

theorem constructed_builtInv {batch : Nat} (hbatch : 1 ≤ batch) : (Channel.constructed batch).BuiltInv batch :=
  ⟨⟨nofun, nofun, nofun⟩, List.length_replicate, List.length_replicate, List.length_replicate, hbatch, .inl rfl, rfl,
    fun _ => ⟨rfl, rfl, rfl, rfl⟩⟩

/-- Every step of a channel keeps its invariant (10_state R21 to R29). -/
theorem channelStep_inv {batch : Nat} {c c' : Channel} (hbatch : 1 ≤ batch) (hc : c.Inv batch)
    (h : ChannelStep batch c c') : c'.Inv batch := by
  have hbuilt := hc.2
  cases h with
  | same => exact hc
  | construct => exact ⟨nofun, fun _ => constructed_builtInv hbatch⟩
  | start hphase =>
    obtain ⟨hroles, h0, h1, h2, hidx, href, herr, -⟩ := hbuilt (by simp [hphase])
    exact ⟨nofun, fun _ => ⟨hroles, h0, h1, h2, hidx, href, herr, nofun⟩⟩
  | acquire hphase htc =>
    obtain ⟨⟨hfa, haa, hfc⟩, h0, h1, h2, hidx, -, herr, hready⟩ := hbuilt hphase
    have not_ready : c.phase ≠ .ready := fun hp => by simp [htc] at hready; exact hready hp
    exact ⟨fun hp => absurd hp hphase, fun _ =>
      ⟨⟨hfa.symm, hfc, haa⟩, h0, h1, h2, hidx, .inr rfl, herr, fun hp => absurd hp not_ready⟩⟩
  | fill b i v hphase =>
    exact ⟨fun hp => absurd hp (by cases b <;> exact hphase), fun _ => builtInv_setBuf_set (hbuilt hphase) b i v⟩
  | beat v hphase hidx =>
    obtain ⟨hroles, h0, h1, h2, -, href, herr, -⟩ := hbuilt (by simp [hphase])
    exact ⟨fun hp => by simp [hphase] at hp, fun _ =>
      ⟨hroles, h0, h1, h2, hidx, href, herr, fun hp => by simp [hphase] at hp⟩⟩
  | complete v hphase =>
    obtain ⟨⟨hfa, haa, hfc⟩, h0, h1, h2, hidx, href, herr, -⟩ := hbuilt (by simp [hphase])
    exact ⟨fun hp => by simp [hphase] at hp, fun _ =>
      ⟨⟨hfc, haa.symm, hfa⟩, h0, h1, h2, hbatch, href, herr, fun hp => by simp [hphase] at hp⟩⟩

/-- Only a fill writes a buffer, and it writes the caller's own, which the engine does not own (R22, R29). -/
theorem channelStep_keeps_engine_buffer {batch : Nat} {c c' : Channel} (h : ChannelStep batch c c')
    (hc : c.phase ≠ .unbuilt) (hinv : c.BuiltInv batch) {b : BufId} (hb : b = c.armed ∨ b = c.active) :
    c'.buf b = c.buf b := by
  cases h with
  | same => rfl
  | construct hphase => exact absurd hphase hc
  | start | acquire | beat | complete => cases b <;> rfl
  | fill d i v _ href =>
    obtain ⟨⟨hfa, -, hfc⟩, -, -, -, -, hown, -⟩ := hinv
    have own : d = c.filling := by simpa [href] using hown
    refine buf_setBuf_other c d b _ ?_
    rw [own]
    obtain rfl | rfl := hb
    · exact hfa.symm
    · exact hfc.symm

/-! ### The machine after a channel instruction -/

/-- `s` with another channel `ch`, another hold and another result. -/
def afterChannel (s : State) (ch : Chan) (c : Channel) (hold : Option Chan) (r : Result) : State :=
  { s.setChan ch c with swHold := hold, result := r }

section
variable (s : State) (ch : Chan) (c : Channel) (hold : Option Chan) (r : Result)

@[simp] theorem afterChannel_cfg : (afterChannel s ch c hold r).cfg = s.cfg := setChan_cfg s ch c
@[simp] theorem afterChannel_dds : (afterChannel s ch c hold r).dds = s.dds := setChan_dds s ch c
@[simp] theorem afterChannel_ddsOp : (afterChannel s ch c hold r).ddsOp = s.ddsOp := setChan_ddsOp s ch c
@[simp] theorem afterChannel_dev : (afterChannel s ch c hold r).dev = s.dev := setChan_dev s ch c
@[simp] theorem afterChannel_swHold : (afterChannel s ch c hold r).swHold = hold := rfl

@[simp] theorem afterChannel_chan_same : (afterChannel s ch c hold r).chan ch = c := by cases ch <;> rfl

theorem afterChannel_chan_of_ne {d : Chan} (h : ch ≠ d) : (afterChannel s ch c hold r).chan d = s.chan d := by
  cases ch <;> cases d
  case ch0.ch1 | ch1.ch0 => rfl
  all_goals exact absurd rfl h

theorem setChan_eq_afterChannel : s.setChan ch c = afterChannel s ch c s.swHold s.result := by cases ch <;> rfl

end

/-! ### The instructions -/

/-- What a channel's sample event makes of it: a beat where it is RUNNING, and nothing otherwise (R150, R152). -/
def eventStep (batch : Nat) (c : Channel) : Option Channel := if c.phase = .running then c.beat batch else some c

theorem exec_sampleEvent (ch : Chan) (s : State) :
    exec (.sampleEvent ch) s = match eventStep s.cfg.batch (s.chan ch) with
      | none => .fault .noSuchElement
      | some c => .next (s.setChan ch c) := by
  by_cases hphase : (s.chan ch).phase = .running
  · rw [exec_sampleEvent_of_running hphase, eventStep, if_pos hphase]
    rfl
  · rw [exec_sampleEvent_of_not_running hphase, eventStep, if_neg hphase]
    exact congrArg Host.Outcome.next (setChan_chan_same s ch).symm

theorem channelStep_of_eventStep {batch : Nat} {c c' : Channel} (h : eventStep batch c = some c') :
    ChannelStep batch c c' := by
  unfold eventStep at h
  split at h
  case isTrue hphase => exact channelStep_of_beat hphase h
  case isFalse => cases h; exact .same

theorem exec_sampleEvent_eq_next_iff (ch : Chan) (s t : State) :
    exec (.sampleEvent ch) s = .next t ↔
      ∃ c, eventStep s.cfg.batch (s.chan ch) = some c ∧ t = s.setChan ch c := by
  rw [exec_sampleEvent]
  cases eventStep s.cfg.batch (s.chan ch) <;> simp [eq_comm]

/-- One case per channel instruction: the step it takes, and where a hold of the caller can come from (R146). -/
theorem exec_next_channelStep {i : Instr} {ch : Chan} {s t : State} (hi : instrChannel i = some ch)
    (h : exec i s = .next t) :
    ∃ c hold r, ChannelStep s.cfg.batch (s.chan ch) c ∧
      (hold = s.swHold ∨ hold = none ∨ hold = some ch ∧ (s.chan ch).phase ≠ .unbuilt) ∧
      t = afterChannel s ch c hold r := by
  cases i with
  | construct d =>
    obtain rfl := Option.some.inj hi
    simp only [exec, execConstruct] at h
    split at h
    case isTrue => cases h
    case isFalse unbuilt =>
      cases h
      exact ⟨_, _, _, .construct (by simpa using unbuilt), .inl (setChan_swHold _ _ _), rfl⟩
  | start d =>
    obtain rfl := Option.some.inj hi
    simp only [exec, execStart] at h
    split at h
    case h_3 ready => cases h; exact ⟨_, _, _, .start ready, .inl (setChan_swHold _ _ _), rfl⟩
    all_goals cases h
  | acquireBuffer d =>
    obtain rfl := Option.some.inj hi
    simp only [exec, execAcquireBuffer] at h
    split at h
    case isTrue => cases h
    case isFalse built =>
      have built' : (s.chan d).phase ≠ .unbuilt := by simpa using built
      split at h
      case isTrue htc => cases h; exact ⟨_, _, _, .acquire built' htc, .inr (.inl rfl), rfl⟩
      case isFalse =>
        cases h
        exact ⟨_, some d, s.result, .same, .inr (.inr ⟨rfl, built'⟩), by cases d <;> rfl⟩
  | fill d k v =>
    obtain rfl := Option.some.inj hi
    simp only [exec, execFill] at h
    split at h
    case h_1 => cases h
    case h_2 b hbuf =>
      obtain ⟨built, href, -⟩ := (swBuffer_eq_ok_iff s d k b).1 hbuf
      split at h
      case h_1 => cases h
      case h_2 c hwrite =>
        cases h
        obtain ⟨-, rfl⟩ := (bufWrite_eq_some_iff _ _ _ _ _).1 hwrite
        exact ⟨_, _, _, .fill b k v built href, .inl (setChan_swHold _ _ _), rfl⟩
  | peek d k =>
    obtain rfl := Option.some.inj hi
    simp only [exec, execPeek] at h
    split at h
    case h_1 => cases h
    case h_2 =>
      split at h
      case h_1 => cases h
      case h_2 v _ => cases h; exact ⟨_, s.swHold, .returned (.code v), .same, .inl rfl, by cases d <;> rfl⟩
  | beat d =>
    obtain rfl := Option.some.inj hi
    simp only [exec, execBeat, beatStep] at h
    split at h
    case isFalse => cases h
    case isTrue running =>
      split at h
      case h_1 => cases h
      case h_2 c hbeat =>
        cases h
        exact ⟨c, _, _, channelStep_of_beat ((isRunning_iff _).1 running) hbeat, .inl rfl,
          setChan_eq_afterChannel s d c⟩
  | sampleEvent d =>
    obtain rfl := Option.some.inj hi
    obtain ⟨c, hevent, rfl⟩ := (exec_sampleEvent_eq_next_iff d s t).1 h
    exact ⟨c, _, _, channelStep_of_eventStep hevent, .inl rfl, setChan_eq_afterChannel s d c⟩
  | _ => cases hi

/-! ### The obligations -/

/-- Settles O24: the frame of a run, of a channel step, and of a later transaction. -/
theorem instancesShareNoState : Obligations.InstancesShareNoState := by
  refine ⟨fun i s t h => ?_, fun o s => ?_⟩
  · cases hi : instrChannel i with
    | none =>
      obtain ⟨run, hrun, rfl, -⟩ := exec_next_runs hi h
      obtain ⟨_, _, _, _, _, _, _, frame⟩ := noChannelRun_frame hrun s
      rw [frame]
      exact ⟨rfl, fun ch _ => by cases ch <;> rfl, fun hne => absurd rfl hne⟩
    | some d =>
      obtain ⟨c, hold, r, -, -, rfl⟩ := exec_next_channelStep hi h
      exact ⟨afterChannel_cfg .., fun ch hne => afterChannel_chan_of_ne _ _ _ _ _ fun e => hne (congrArg some e),
        fun _ => ⟨afterChannel_dds .., afterChannel_ddsOp .., afterChannel_dev ..⟩⟩
  · obtain ⟨_, _, _, _, frame⟩ := continueOp_frame s o
    rw [frame]
    exact ⟨rfl, fun ch => by cases ch <;> rfl⟩

/-- An event of one channel after a run that ignores the channels is the run after the event. -/
theorem exec_sampleEvent_of_ignoresChannels {run : State → State} (hrun : IgnoresChannels run) {ch : Chan} {s t : State}
    (hcfg : (run s).cfg = s.cfg) (hchan : (run s).chan ch = s.chan ch) (h : exec (.sampleEvent ch) s = .next t) :
    exec (.sampleEvent ch) (run s) = .next (run t) := by
  obtain ⟨c, hevent, rfl⟩ := (exec_sampleEvent_eq_next_iff ch s t).1 h
  exact (exec_sampleEvent_eq_next_iff ch _ _).2 ⟨c, by rwa [hcfg, hchan], hrun s ch c⟩

/-- The events of the two channels, in one order: each reads and writes its own channel only. -/
theorem runInstrs_two_events (ch : Chan) (s : State) :
    runInstrs [.sampleEvent ch, .sampleEvent ch.other] s =
      match eventStep s.cfg.batch (s.chan ch), eventStep s.cfg.batch (s.chan ch.other) with
      | some c, some d => .next ((s.setChan ch c).setChan ch.other d)
      | _, _ => .fault .noSuchElement := by
  simp only [runInstrs, exec_sampleEvent]
  cases eventStep s.cfg.batch (s.chan ch) with
  | none => rfl
  | some c =>
    simp only [setChan_cfg, chan_setChan_other]
    cases eventStep s.cfg.batch (s.chan ch.other) <;> rfl

/-- Settles O25: two events touch two channels; everything about no channel ignores the channels. -/
theorem sampleEventsOfTwoChannelsCommute : Obligations.SampleEventsOfTwoChannelsCommute := by
  refine ⟨fun ch s => ?_, fun ch i s t u hi ht hu => ?_, fun ch o s t ht => ?_⟩
  · have other_other : ch.other.other = ch := by cases ch <;> rfl
    have swapped := runInstrs_two_events ch.other s
    rw [other_other] at swapped
    rw [runInstrs_two_events, swapped]
    cases eventStep s.cfg.batch (s.chan ch) <;> cases eventStep s.cfg.batch (s.chan ch.other) <;>
      simp only [setChan_comm]
  · obtain ⟨run, hrun, rfl, runs⟩ := exec_next_runs hi hu
    obtain ⟨cfg_eq, chan_eq, -⟩ := instancesShareNoState.1 i s _ hu
    refine ⟨run t, ?_, exec_sampleEvent_of_ignoresChannels (noChannelRun_ignoresChannels hrun) cfg_eq
      (chan_eq ch (by simp [hi])) ht⟩
    obtain ⟨c, -, rfl⟩ := (exec_sampleEvent_eq_next_iff ch s t).1 ht
    exact runs _ (setChan_cfg s ch c) (setChan_dds s ch c)
  · obtain ⟨cfg_eq, chan_eq⟩ := instancesShareNoState.2 o s
    exact exec_sampleEvent_of_ignoresChannels (continueOp_ignoresChannels o) cfg_eq (chan_eq ch) ht

/-- Settles O26: the caller's reference is the filling buffer, and only a fill writes a buffer. -/
theorem engineOwnedBuffersAreNeverWritten : Obligations.EngineOwnedBuffersAreNeverWritten := by
  refine ⟨fun ch b s hinv hbuilt hsw => ?_, fun i ch b s t hinv hbuilt heng h => ?_⟩
  · obtain ⟨⟨hfa, -, hfc⟩, -, -, -, -, hown, -⟩ := (inv_chan s ch hinv).2 hbuilt
    have href : (s.chan ch).swRef = some b := of_decide_eq_true hsw
    obtain rfl : b = (s.chan ch).filling := by simpa [href] using hown
    simp [State.engineOwns, hfa, hfc]
  · have hb : b = (s.chan ch).armed ∨ b = (s.chan ch).active := by simpa [State.engineOwns] using heng
    by_cases hi : instrChannel i = some ch
    · obtain ⟨c, hold, r, hstep, -, rfl⟩ := exec_next_channelStep hi h
      rw [afterChannel_chan_same]
      exact channelStep_keeps_engine_buffer hstep hbuilt ((inv_chan s ch hinv).2 hbuilt) hb
    · obtain ⟨-, chan_eq, -⟩ := instancesShareNoState.1 i s t h
      rw [chan_eq ch hi]

end Sys2Proof
end

section
/-! The invariant (10_state R21 to R29, R293, R201): it splits into the parameters, the channels, the DDS side and the
caller's hold. Each part is kept by the steps that can touch it, a bus transaction, a channel step, or a turn. -/

namespace Sys2Proof
open Sys2Proof.Machine

/-! ### The parts of the invariant -/

/-- The DDS side: the register space is canonical with the part-ID register unlisted (U7), and a caller is inside a
`set_pll` only while `dds.inited` is 1 (R201). -/
structure DdsInv (s : State) : Prop where
  canonical : Memory.wf s.dev.regs = true
  partIdUnlisted : Memory.get s.dev.regs s.cfg.addrPartId.toNat = none
  opAllowed : s.dds.inited = true ∨ s.ddsOp = none ∨ s.ddsOp = some .initReadId ∨ s.ddsOp = some .initPower

/-- The caller's hold: on a constructed channel, and outside any DDS operation (R293). -/
structure HoldInv (s : State) : Prop where
  onBuilt : ∀ ch, s.swHold = some ch → (s.chan ch).phase ≠ .unbuilt
  alone : s.swHold = none ∨ s.ddsOp = none

theorem holdAll_iff (s : State) :
    (s.swHold.all fun ch => (s.chan ch).built) = true ↔ ∀ ch, s.swHold = some ch → (s.chan ch).phase ≠ .unbuilt := by
  simp [Option.all_eq_true, built_iff]

theorem inv_iff (s : State) :
    s.Inv ↔ s.cfg.Wf ∧ (∀ ch, (s.chan ch).Inv s.cfg.batch) ∧ DdsInv s ∧ HoldInv s := by
  constructor
  · intro h
    obtain ⟨hcfg, -, -, hwf, hid, hheld, halone, hop⟩ := id h
    exact ⟨hcfg, fun ch => inv_chan s ch h, ⟨hwf, hid, hop⟩, (holdAll_iff s).1 hheld, halone⟩
  · rintro ⟨hcfg, hchan, ⟨hwf, hid, hop⟩, hheld, halone⟩
    exact ⟨hcfg, hchan .ch0, hchan .ch1, hwf, hid, (holdAll_iff s).2 hheld, halone, hop⟩

/-! ### The DDS side under one transaction and the step it is part of -/

theorem busTransaction_ddsInv (header : List Byte) (part : BusPart) {s : State} (hs : DdsInv s) :
    DdsInv (busTransaction header part s).2 := by
  obtain ⟨hwf, hid⟩ := busTransaction_regs header part s hs.canonical hs.partIdUnlisted
  obtain ⟨dev, r, frame⟩ := busTransaction_frame header part s
  rw [frame] at hwf hid ⊢
  exact ⟨hwf, hid, hs.opAllowed⟩

theorem busTransaction_inited (header : List Byte) (part : BusPart) (s : State) :
    (busTransaction header part s).2.dds.inited = s.dds.inited := by
  obtain ⟨dev, r, frame⟩ := busTransaction_frame header part s
  rw [frame]

/-- Only what an operation goes on with is left to check: the transaction keeps the DDS side good, and a failure only
changes the result. -/
theorem writeStep_ddsInv (h : BitVec 16) (p : List Byte) {next : State → State} {s : State} (hs : DdsInv s)
    (hn : ∀ u, DdsInv u → u.dds.inited = s.dds.inited → DdsInv (next u)) : DdsInv (writeStep h p next s) := by
  have hbus := busTransaction_ddsInv (headerBytes h) (.w p) hs
  obtain ⟨e, failed⟩ | went_on := writeStep_cases h p next s
  · rw [failed]; exact ⟨hbus.canonical, hbus.partIdUnlisted, hbus.opAllowed⟩
  · rw [went_on]; exact hn _ hbus (busTransaction_inited _ _ s)

theorem readStep_ddsInv (h : BitVec 16) (n : Nat) {next : List Byte → State → State} {s : State} (hs : DdsInv s)
    (hn : ∀ bytes u, DdsInv u → DdsInv (next bytes u)) : DdsInv (readStep h n next s) := by
  have hbus := busTransaction_ddsInv (headerBytes h) (.r n) hs
  obtain ⟨e, failed⟩ | ⟨bytes, went_on⟩ := readStep_cases h n next s
  · rw [failed]; exact ⟨hbus.canonical, hbus.partIdUnlisted, hbus.opAllowed⟩
  · rw [went_on]; exact hn bytes _ hbus

theorem readInto_ddsInv (h : BitVec 16) (n : Nat) {s : State} (hs : DdsInv s) : DdsInv (readInto h n s) := by
  have hbus := busTransaction_ddsInv (headerBytes h) (.r n) hs
  unfold readInto
  match hb : busTransaction (headerBytes h) (.r n) s with
  | (.error e, s') => rw [hb] at hbus; exact ⟨hbus.canonical, hbus.partIdUnlisted, hbus.opAllowed⟩
  | (.ok bytes, s') => rw [hb] at hbus; exact ⟨hbus.canonical, hbus.partIdUnlisted, hbus.opAllowed⟩

/-- A chip that was reset behind the block loses its registers, which is a canonical register space too. -/
theorem setterStep_ddsInv (h : BitVec 16) (p : List Byte) {next : State → State} {s : State} (hs : DdsInv s)
    (hn : ∀ u, DdsInv u → u.dds.inited = s.dds.inited → DdsInv (next u)) : DdsInv (setterStep h p next s) := by
  have hwrite := writeStep_ddsInv h p hs hn
  unfold setterStep
  split
  · exact ⟨rfl, rfl, hwrite.opAllowed⟩
  · exact hwrite

theorem returnValue_ddsInv (v : Value) {s : State} (hs : DdsInv s) : DdsInv (s.returnValue v) :=
  ⟨hs.canonical, hs.partIdUnlisted, hs.opAllowed⟩

theorem leaveOp_ddsInv {s : State} (hs : DdsInv s) : DdsInv s.leaveOp :=
  ⟨hs.canonical, hs.partIdUnlisted, .inr (.inl rfl)⟩

/-- `soft_reset` clears `dds.inited`, but no caller inside an operation calls it. -/
theorem setInited_ddsInv {s : State} (b : Bool) (hop : s.ddsOp = none) (hs : DdsInv s) : DdsInv (s.setInited b) :=
  ⟨hs.canonical, hs.partIdUnlisted, .inr (.inl hop)⟩

theorem noChannelRun_ddsInv {s : State} {run : State → State} (hrun : NoChannelRun s.dds.inited run)
    (hop : s.ddsOp = none) (hs : DdsInv s) : DdsInv (run s) := by
  cases hrun with
  | value v => exact returnValue_ddsInv v hs
  | write h p => exact writeStep_ddsInv h p hs fun u hu _ => returnValue_ddsInv .unit hu
  | read h n => exact readInto_ddsInv h n hs
  | init h p =>
    exact writeStep_ddsInv h p (leaveOp_ddsInv hs) fun u hu _ =>
      ⟨hu.canonical, hu.partIdUnlisted, .inr (.inr (.inl rfl))⟩
  | softReset h p =>
    exact writeStep_ddsInv h p (setInited_ddsInv false hop hs) fun u hu _ => returnValue_ddsInv .unit hu
  | setter h p v => exact setterStep_ddsInv h p hs fun u hu _ => returnValue_ddsInv v hu
  | setPll h p pllConfig hin =>
    exact setterStep_ddsInv h p (leaveOp_ddsInv hs) fun u hu inited_eq =>
      ⟨hu.canonical, hu.partIdUnlisted, .inl (inited_eq.trans hin)⟩

theorem continueOp_ddsInv {s : State} (o : OpStep) (hs : DdsInv s) : DdsInv (s.continueOp o) := by
  cases o with
  | initReadId =>
    refine readStep_ddsInv _ _ (leaveOp_ddsInv hs) fun bytes u hu => ?_
    split
    · exact ⟨hu.canonical, hu.partIdUnlisted, .inr (.inr (.inr rfl))⟩
    · exact ⟨hu.canonical, hu.partIdUnlisted, hu.opAllowed⟩
  | initPower =>
    exact writeStep_ddsInv _ _ (leaveOp_ddsInv hs) fun u hu _ => ⟨hu.canonical, hu.partIdUnlisted, .inl rfl⟩
  | pllControl => exact setterStep_ddsInv _ _ (leaveOp_ddsInv hs) fun u hu _ => returnValue_ddsInv .unit hu

/-! ### The machine under an instruction -/

/-- A step of one channel keeps a good state, if the hold it leaves is one the caller had, none, or in that channel. -/
theorem afterChannel_inv {s : State} {ch : Chan} {c : Channel} {hold : Option Chan} (r : Result) (hs : s.Inv)
    (hstep : ChannelStep s.cfg.batch (s.chan ch) c) (hheld : ∀ d, hold = some d → (s.chan d).phase ≠ .unbuilt)
    (halone : hold = none ∨ s.ddsOp = none) : (afterChannel s ch c hold r).Inv := by
  obtain ⟨hcfg, hchan, hdds, -⟩ := (inv_iff s).1 hs
  refine (inv_iff _).2 ⟨by simpa using hcfg, fun d => ?_, ⟨by simpa using hdds.canonical,
    by simpa using hdds.partIdUnlisted, by simpa using hdds.opAllowed⟩, fun d hd => ?_, by simpa using halone⟩
  · rw [afterChannel_cfg]
    by_cases hd : ch = d
    · subst hd
      rw [afterChannel_chan_same]
      exact channelStep_inv hcfg.1 (hchan ch) hstep
    · rw [afterChannel_chan_of_ne _ _ _ _ _ hd]
      exact hchan d
  · have built := hheld d hd
    by_cases hd : ch = d
    · subst hd
      rw [afterChannel_chan_same]
      exact channelStep_built hstep built
    · rwa [afterChannel_chan_of_ne _ _ _ _ _ hd]

theorem exec_inv_of_channel {i : Instr} {ch : Chan} {s t : State} (hi : instrChannel i = some ch) (hs : s.Inv)
    (hop : s.ddsOp = none) (h : exec i s = .next t) : t.Inv := by
  obtain ⟨c, hold, r, hstep, hold_from, rfl⟩ := exec_next_channelStep hi h
  obtain ⟨-, -, -, hhold⟩ := (inv_iff s).1 hs
  refine afterChannel_inv r hs hstep (fun d hd => ?_) (.inr hop)
  obtain rfl | rfl | ⟨rfl, built⟩ := hold_from
  · exact hhold.onBuilt d hd
  · cases hd
  · cases hd; exact built

theorem sampleEvent_inv {ch : Chan} {s t : State} (hs : s.Inv) (h : exec (.sampleEvent ch) s = .next t) : t.Inv := by
  obtain ⟨c, hevent, rfl⟩ := (exec_sampleEvent_eq_next_iff ch s t).1 h
  obtain ⟨-, -, -, hhold⟩ := (inv_iff s).1 hs
  rw [setChan_eq_afterChannel]
  exact afterChannel_inv s.result hs (channelStep_of_eventStep hevent) hhold.onBuilt hhold.alone

/-- What touches the DDS side only keeps a good state if it keeps that side good and the caller is not held. -/
theorem inv_of_frame {s t : State} (hs : s.Inv) (hcfg : t.cfg = s.cfg) (hchan : ∀ ch, t.chan ch = s.chan ch)
    (hdds : DdsInv t) (hhold : t.swHold = none) : t.Inv := by
  obtain ⟨cfg_wf, chan_inv, -, -⟩ := (inv_iff s).1 hs
  exact (inv_iff t).2 ⟨hcfg ▸ cfg_wf, fun ch => by rw [hchan, hcfg]; exact chan_inv ch, hdds,
    fun ch hheld => (by simp [hhold] at hheld), .inl hhold⟩

theorem exec_inv_of_no_channel {i : Instr} {s t : State} (hi : instrChannel i = none) (hs : s.Inv)
    (hhold : s.swHold = none) (hop : s.ddsOp = none) (h : exec i s = .next t) : t.Inv := by
  obtain ⟨run, hrun, rfl, -⟩ := exec_next_runs hi h
  obtain ⟨cfg_eq, chan_eq, -⟩ := instancesShareNoState.1 i s _ h
  obtain ⟨-, -, hdds, -⟩ := (inv_iff s).1 hs
  refine inv_of_frame hs cfg_eq (fun ch => chan_eq ch (by simp [hi])) (noChannelRun_ddsInv hrun hop hdds) ?_
  obtain ⟨_, _, _, _, _, _, _, frame⟩ := noChannelRun_frame hrun s
  rw [frame]
  exact hhold

theorem continueOp_inv {s : State} (o : OpStep) (hs : s.Inv) (hhold : s.swHold = none) : (s.continueOp o).Inv := by
  obtain ⟨cfg_eq, chan_eq⟩ := instancesShareNoState.2 o s
  obtain ⟨-, -, hdds, -⟩ := (inv_iff s).1 hs
  refine inv_of_frame hs cfg_eq chan_eq (continueOp_ddsInv o hdds) ?_
  obtain ⟨_, _, _, _, frame⟩ := continueOp_frame s o
  rw [frame]
  exact hhold

/-! ### The turns (00_scope R11, 20_memory R72) -/

theorem swTurn_of_hold {s : State} {ch : Chan} (h : s.swHold = some ch) : swTurn s = exec (.acquireBuffer ch) s := by
  simp only [swTurn, State.nextSwStep, h]

theorem swTurn_of_op {s : State} {o : OpStep} (hhold : s.swHold = none) (h : s.ddsOp = some o) :
    swTurn s = .next (s.continueOp o) := by
  simp only [swTurn, State.nextSwStep, hhold, h]

theorem swTurn_of_no_call {s : State} (hhold : s.swHold = none) (hop : s.ddsOp = none) (h : s.calls = []) :
    swTurn s = .next s := by
  simp only [swTurn, State.nextSwStep, hhold, hop, h]

theorem swTurn_of_call {s : State} {r : Request} {calls : List Request} {i : Instr} (hhold : s.swHold = none)
    (hop : s.ddsOp = none) (h : s.calls = r :: calls) (hr : decode r = .ok i) : swTurn s = exec i s.popCall := by
  simp only [swTurn, State.nextSwStep, hhold, hop, h, hr]

theorem swTurn_of_undecodable {s : State} {r : Request} {calls : List Request} {e : DecodeError}
    (hhold : s.swHold = none) (hop : s.ddsOp = none) (h : s.calls = r :: calls) (hr : decode r = .error e) :
    swTurn s = .refused (.undecodable e) := by
  simp only [swTurn, State.nextSwStep, hhold, hop, h, hr]

/-- What a caller's turn can be, by where the caller is. -/
theorem swTurn_cases (s : State) :
    (∃ ch, s.swHold = some ch ∧ swTurn s = exec (.acquireBuffer ch) s) ∨
    (∃ o, s.swHold = none ∧ s.ddsOp = some o ∧ swTurn s = .next (s.continueOp o)) ∨
    (s.swHold = none ∧ s.ddsOp = none ∧
      (swTurn s = .next s ∨ (∃ why, swTurn s = .refused why) ∨ ∃ i, swTurn s = exec i s.popCall)) := by
  cases hhold : s.swHold with
  | some ch => exact .inl ⟨ch, rfl, swTurn_of_hold hhold⟩
  | none =>
    cases hop : s.ddsOp with
    | some o => exact .inr (.inl ⟨o, rfl, rfl, swTurn_of_op hhold hop⟩)
    | none =>
      refine .inr (.inr ⟨rfl, rfl, ?_⟩)
      cases hcalls : s.calls with
      | nil => exact .inl (swTurn_of_no_call hhold hop hcalls)
      | cons r calls =>
        cases hr : decode r with
        | error e => exact .inr (.inl ⟨_, swTurn_of_undecodable hhold hop hcalls hr⟩)
        | ok i => exact .inr (.inr ⟨i, swTurn_of_call hhold hop hcalls hr⟩)

/-- The invariant reads neither the caller's program, nor the order of turns, nor the counter. -/
theorem popCall_inv {s : State} (hs : s.Inv) : s.popCall.Inv := hs
theorem popTurn_inv {s : State} (hs : s.Inv) : s.popTurn.Inv := hs
theorem advanceTimer_inv {s : State} (hs : s.Inv) : s.advanceTimer.Inv := hs

theorem swTurn_inv {s t : State} (hs : s.Inv) (h : swTurn s = .next t) : t.Inv := by
  obtain ⟨-, -, -, hhold⟩ := (inv_iff s).1 hs
  obtain ⟨ch, hheld, turn⟩ | ⟨o, hfree, -, turn⟩ | ⟨hfree, hop, turn | ⟨why, turn⟩ | ⟨i, turn⟩⟩ := swTurn_cases s
  all_goals rw [turn] at h
  · exact exec_inv_of_channel rfl hs (hhold.alone.resolve_left (by simp [hheld])) h
  · cases h; exact continueOp_inv o hs hfree
  · cases h; exact hs
  · cases h
  · cases hi : instrChannel i with
    | none => exact exec_inv_of_no_channel hi (popCall_inv hs) hfree hop h
    | some ch => exact exec_inv_of_channel hi (popCall_inv hs) hop h

theorem timerTurn_inv {s t : State} (hs : s.Inv) (h : timerTurn s = .next t) : t.Inv := by
  unfold timerTurn at h
  split at h
  case h_1 => cases h; exact advanceTimer_inv hs
  case h_2 => exact sampleEvent_inv (advanceTimer_inv hs) h

theorem updateStrobe_inv {s : State} (hs : s.Inv) : s.updateStrobe.Inv := hs

theorem chipReset_inv {s : State} (hs : s.Inv) : s.chipReset.Inv := by
  obtain ⟨hcfg, hchan, hdds, hhold⟩ := (inv_iff s).1 hs
  exact (inv_iff _).2 ⟨hcfg, hchan, ⟨rfl, rfl, hdds.opAllowed⟩, hhold.onBuilt, hhold.alone⟩

/-! ### No access misses its element -/

/-- On a good channel a beat answers, and so does an access through the caller's reference. -/
theorem beat_answers {s : State} {ch : Chan} (hs : s.Inv) (hrun : (s.chan ch).phase = .running) :
    ∃ c, (s.chan ch).beat s.cfg.batch = some c := by
  obtain ⟨v, hread⟩ := builtInv_bufRead _ _ ((inv_chan s ch hs).2 (by simp [hrun]))
  exact ⟨_, beat_of_bufRead hread⟩

theorem swBuffer_length {s : State} {ch : Chan} {i : Nat} {b : BufId} (hs : s.Inv) (h : s.swBuffer ch i = .ok b) :
    i < ((s.chan ch).buf b).length := by
  obtain ⟨built, -, hi⟩ := (swBuffer_eq_ok_iff s ch i b).1 h
  rwa [builtInv_buf_length _ _ ((inv_chan s ch hs).2 built)]

/-- One case per channel instruction that reads or writes a buffer. -/
theorem exec_ne_fault {s : State} (hs : s.Inv) (i : Instr) (r : Fault) : exec i s ≠ .fault r := by
  intro h
  cases i with
  | construct | start | acquireBuffer =>
    simp only [exec, execConstruct, execStart, execAcquireBuffer] at h
    repeat' split at h
    all_goals cases h
  | fill ch k v =>
    simp only [exec, execFill] at h
    split at h
    case h_1 => cases h
    case h_2 b hbuf =>
      have written := (bufWrite_eq_some_iff (s.chan ch) _ b k v).2 ⟨swBuffer_length hs hbuf, rfl⟩
      rw [written] at h
      cases h
  | peek ch k =>
    simp only [exec, execPeek] at h
    split at h
    case h_1 => cases h
    case h_2 b hbuf =>
      have read : (s.chan ch).bufRead b k = some _ := List.getElem?_eq_getElem (swBuffer_length hs hbuf)
      rw [read] at h
      cases h
  | beat ch =>
    by_cases hrun : (s.chan ch).phase = .running
    · obtain ⟨c, hbeat⟩ := beat_answers hs hrun
      rw [exec_beat_of_running hrun, beatStep_of_beat hbeat] at h
      cases h
    · simp [exec, execBeat, Channel.isRunning, hrun] at h
  | sampleEvent ch =>
    by_cases hrun : (s.chan ch).phase = .running
    · obtain ⟨c, hbeat⟩ := beat_answers hs hrun
      rw [exec_sampleEvent_of_running hrun, beatStep_of_beat hbeat] at h
      cases h
    · rw [exec_sampleEvent_of_not_running hrun] at h
      cases h
  | _ => exact exec_ne_fault_of_no_channel rfl s r h

theorem swTurn_ne_fault {s : State} (hs : s.Inv) (r : Fault) : swTurn s ≠ .fault r := by
  intro h
  obtain ⟨ch, -, turn⟩ | ⟨o, -, -, turn⟩ | ⟨-, -, turn | ⟨why, turn⟩ | ⟨i, turn⟩⟩ := swTurn_cases s
  all_goals rw [turn] at h
  · exact exec_ne_fault hs _ r h
  · cases h
  · cases h
  · cases h
  · exact exec_ne_fault (popCall_inv hs) i r h

theorem timerTurn_ne_fault {s : State} (hs : s.Inv) (r : Fault) : timerTurn s ≠ .fault r := by
  intro h
  unfold timerTurn at h
  split at h
  · cases h
  · exact exec_ne_fault (advanceTimer_inv hs) _ r h

/-! ### The obligations -/

/-- Settles O59: one case per turn. -/
theorem everyStepKeepsAGoodState : Obligations.EveryStepKeepsAGoodState := by
  intro s t hs h
  have hpop := popTurn_inv hs
  unfold step at h
  split at h
  case h_1 => cases h; exact hs
  case h_2 => exact swTurn_inv hpop h
  case h_3 => exact timerTurn_inv hpop h
  case h_4 => cases h; exact updateStrobe_inv hpop
  case h_5 => cases h; exact chipReset_inv hpop

/-- Settles O60: only a turn that runs an instruction can reach a buffer. -/
theorem goodStatesNeverFault : Obligations.GoodStatesNeverFault := by
  intro s r hs h
  have hpop := popTurn_inv hs
  unfold step at h
  split at h
  case h_2 => exact swTurn_ne_fault hpop r h
  case h_3 => exact timerTurn_ne_fault hpop r h
  all_goals cases h

/-- Whatever the opaque parameters are, the ones at reset meet 00_scope R7. -/
theorem params_wf : Config.params.Wf := by
  unfold Config.params
  split
  · assumption
  · decide

/-- Settles O58: both channels are UNBUILT, the register space is empty, and the caller is nowhere. -/
theorem resetIsAGoodState : Obligations.ResetIsAGoodState :=
  (inv_iff _).2 ⟨params_wf, fun ch => by cases ch <;> exact ⟨fun _ => ⟨rfl, rfl⟩, fun built => absurd rfl built⟩,
    ⟨rfl, rfl, .inr (.inl rfl)⟩, nofun, .inl rfl⟩

end Sys2Proof
end

section
/-! The Waveform Output Channel's calls and whole batches (41_waveform_channel): one equation per answer of a call, and
the run of `BATCH` beats as one function of the channel, so that several batches are that function applied again. -/

namespace Sys2Proof
open Sys2Proof.Machine

section
variable {ch : Chan} {s : State}

/-! ### What the calls answer -/

theorem exec_construct_of_unbuilt (h : (s.chan ch).phase = .unbuilt) :
    exec (.construct ch) s = .next { s.setChan ch (Channel.constructed s.cfg.batch) with result := .returned .unit } := by
  simp [exec, execConstruct, Channel.built, h]

theorem exec_construct_of_built (h : (s.chan ch).phase ≠ .unbuilt) :
    exec (.construct ch) s = .refused .alreadyConstructed := by
  simp [exec, execConstruct, Channel.built, h]

/-- The channel after an `acquire_buffer` that found the flag set (R145, R147). -/
def acquired (c : Channel) : Channel :=
  { c with tc := false, filling := c.armed, armed := c.filling, swRef := some c.armed }

theorem exec_acquireBuffer_of_complete (h : (s.chan ch).phase ≠ .unbuilt) (htc : (s.chan ch).tc = true) :
    exec (.acquireBuffer ch) s =
      .next (afterChannel s ch (acquired (s.chan ch)) none (.returned (.bufRef (s.chan ch).armed))) := by
  simp [exec, execAcquireBuffer, Channel.built, h, htc, afterChannel, acquired]

theorem exec_acquireBuffer_of_waiting (h : (s.chan ch).phase ≠ .unbuilt) (htc : (s.chan ch).tc = false) :
    exec (.acquireBuffer ch) s = .next { s with swHold := some ch } := by
  simp [exec, execAcquireBuffer, Channel.built, h, htc]

theorem exec_acquireBuffer_of_unbuilt (h : (s.chan ch).phase = .unbuilt) :
    exec (.acquireBuffer ch) s = .refused .channelUnbuilt := by
  simp [exec, execAcquireBuffer, Channel.built, h]

theorem exec_beat_of_not_running (h : (s.chan ch).phase ≠ .running) : exec (.beat ch) s = .refused .notRunning :=
  if_neg (mt (isRunning_iff _).1 h)

/-- `fill` and `peek` stop with what their shared precondition says. -/
theorem exec_fill_of_error {i : Nat} {v : Code} {why : Refusal} (h : s.swBuffer ch i = .error why) :
    exec (.fill ch i v) s = .refused why := by
  simp only [exec, execFill, h]

theorem exec_peek_of_error {i : Nat} {why : Refusal} (h : s.swBuffer ch i = .error why) :
    exec (.peek ch i) s = .refused why := by
  simp only [exec, execPeek, h]

theorem swBuffer_of_unbuilt (i : Nat) (h : (s.chan ch).phase = .unbuilt) :
    s.swBuffer ch i = .error .channelUnbuilt := by
  simp [State.swBuffer, Channel.built, h]

theorem swBuffer_of_no_reference (i : Nat) (h : (s.chan ch).phase ≠ .unbuilt) (href : (s.chan ch).swRef = none) :
    s.swBuffer ch i = .error .noReference := by
  simp [State.swBuffer, Channel.built, h, href]

theorem swBuffer_of_out_of_range {i : Nat} (h : (s.chan ch).phase ≠ .unbuilt) (href : (s.chan ch).swRef ≠ none)
    (hi : s.cfg.batch ≤ i) : s.swBuffer ch i = .error .indexOutOfRange := by
  obtain ⟨b, hb⟩ := Option.ne_none_iff_exists'.1 href
  simp [State.swBuffer, Channel.built, h, hb, hi]

theorem exec_fill_of_ok {i : Nat} {v : Code} {b : BufId} {c : Channel} (h : s.swBuffer ch i = .ok b)
    (hwrite : (s.chan ch).bufWrite b i v = some c) :
    exec (.fill ch i v) s = .next (afterChannel s ch c s.swHold (.returned .unit)) := by
  simp only [exec, execFill, h, hwrite, returnOk_eq]
  cases ch <;> rfl

theorem exec_peek_of_ok {i : Nat} {v : Code} {b : BufId} (h : s.swBuffer ch i = .ok b)
    (hread : (s.chan ch).bufRead b i = some v) :
    exec (.peek ch i) s = .next { s with result := .returned (.code v) } := by
  simp only [exec, execPeek, h, hread, returnValue_eq]

end

/-! ### One batch -/

/-- A RUNNING channel of a good state before the first beat of a batch. -/
structure AtBatchStart (batch : Nat) (c : Channel) : Prop where
  running : c.phase = .running
  good : c.BuiltInv batch
  atZero : c.idx = 0

/-- The channel after one batch: the active buffer's codes emitted, and the completion (R150). -/
def streamed (c : Channel) : Channel :=
  { c with out := c.out ++ c.buf c.active, tc := true, active := c.armed, armed := c.active }

theorem builtInv_of_channelStep {batch : Nat} {c c' : Channel} (hc : c.BuiltInv batch) (hbuilt : c.phase ≠ .unbuilt)
    (h : ChannelStep batch c c') : c'.BuiltInv batch := by
  obtain ⟨-, -, -, -, hidx, -⟩ := id hc
  exact (channelStep_inv (by omega) ⟨fun hp => absurd hp hbuilt, fun _ => hc⟩ h).2 (channelStep_built h hbuilt)

theorem streamed_atBatchStart {batch : Nat} {c : Channel} (h : AtBatchStart batch c) :
    AtBatchStart batch (streamed c) where
  running := h.running
  good := by
    obtain ⟨⟨hfa, haa, hfc⟩, h0, h1, h2, hidx, href, herr, -⟩ := h.good
    exact ⟨⟨hfc, haa.symm, hfa⟩, h0, h1, h2, hidx, href, herr, fun hp => by simp [streamed, h.running] at hp⟩
  atZero := h.atZero

theorem acquired_atBatchStart {batch : Nat} {c : Channel} (h : AtBatchStart batch c) (htc : c.tc = true) :
    AtBatchStart batch (acquired c) where
  running := h.running
  good := builtInv_of_channelStep h.good (by simp [h.running]) (.acquire (by simp [h.running]) htc)
  atZero := h.atZero

theorem beats_succ (ch : Chan) (n : Nat) : beats ch (n + 1) = beats ch n ++ [.beat ch] := List.replicate_succ'

theorem runInstrs_append_of_next {a b : List Instr} {s t : State} (h : runInstrs a s = .next t) :
    runInstrs (a ++ b) s = runInstrs b t := by
  rw [runInstrs_append, h]

theorem runInstrs_cons_of_next {i : Instr} {is : List Instr} {s t : State} (h : exec i s = .next t) :
    runInstrs (i :: is) s = runInstrs is t := by
  simp only [runInstrs, h]

theorem runInstrs_singleton_of_next {i : Instr} {s t : State} (h : exec i s = .next t) : runInstrs [i] s = .next t :=
  runInstrs_cons_of_next h

/-- The channel after the first `k` beats of a batch, before the completion. -/
def partway (c : Channel) (k : Nat) : Channel := { c with out := c.out ++ (c.buf c.active).take k, idx := k }

theorem partway_zero {batch : Nat} {c : Channel} (h : AtBatchStart batch c) : partway c 0 = c := by
  rw [partway, List.take_zero, List.append_nil, ← h.atZero]

/-- One beat partway through a batch emits the next code of the active buffer; the last one ends the batch. -/
theorem exec_beat_partway {ch : Chan} {s : State} {c : Channel} (h : AtBatchStart s.cfg.batch c) {k : Nat}
    (hk : k < s.cfg.batch) :
    exec (.beat ch) (s.setChan ch (partway c k)) =
      .next (s.setChan ch (if k + 1 < s.cfg.batch then partway c (k + 1) else streamed c)) := by
  have hlen := builtInv_buf_length _ _ h.good c.active
  have hlt : k < (c.buf c.active).length := by omega
  have hread : (partway c k).bufRead (partway c k).active (partway c k).idx = some (c.buf c.active)[k] :=
    List.getElem?_eq_getElem hlt
  refine (beatEmitsOneCodeAndCompletes ch _ _ _ (.inl rfl) (by rw [chan_setChan_same]; exact h.running)
    (by rw [chan_setChan_same]; exact hread)).trans ?_
  simp only [chan_setChan_same, setChan_cfg, setChan_setChan_same, partway, List.append_assoc, List.take_append_getElem]
  by_cases before_last : k + 1 < s.cfg.batch
  · rw [if_pos before_last, if_pos before_last]
  · rw [if_neg before_last, if_neg before_last, List.take_of_length_le (by omega), streamed, ← h.atZero]

theorem runInstrs_beats_partway {ch : Chan} {s : State} (h : AtBatchStart s.cfg.batch (s.chan ch)) (k : Nat)
    (hk : k < s.cfg.batch) : runInstrs (beats ch k) s = .next (s.setChan ch (partway (s.chan ch) k)) := by
  induction k with
  | zero => rw [partway_zero h, setChan_chan_same]; rfl
  | succ k ih =>
    rw [beats_succ, runInstrs_append_of_next (ih (by omega)),
      runInstrs_singleton_of_next (exec_beat_partway h (by omega)), if_pos hk]

/-- The last beat of a batch completes it (R73 point 5). -/
theorem runInstrs_batch {ch : Chan} {s : State} (h : AtBatchStart s.cfg.batch (s.chan ch)) :
    runInstrs (beats ch s.cfg.batch) s = .next (s.setChan ch (streamed (s.chan ch))) := by
  obtain ⟨-, -, -, -, hidx, -⟩ := id h.good
  obtain ⟨k, hk⟩ : ∃ k, s.cfg.batch = k + 1 := ⟨s.cfg.batch - 1, by omega⟩
  rw [hk, beats_succ, runInstrs_append_of_next (runInstrs_beats_partway h k (by omega)),
    runInstrs_singleton_of_next (exec_beat_partway h (by omega)), if_neg (by omega)]

/-- A second batch starts where the first ended. -/
theorem runInstrs_two_batches {ch : Chan} {s : State} (h : AtBatchStart s.cfg.batch (s.chan ch)) :
    runInstrs (beats ch s.cfg.batch ++ beats ch s.cfg.batch) s =
      .next (s.setChan ch (streamed (streamed (s.chan ch)))) := by
  have second := runInstrs_batch (ch := ch) (s := s.setChan ch (streamed (s.chan ch)))
    (by rw [setChan_cfg, chan_setChan_same]; exact streamed_atBatchStart h)
  rw [setChan_cfg, chan_setChan_same, setChan_setChan_same] at second
  rw [runInstrs_append_of_next (runInstrs_batch h), second]

/-- One batch and the call that takes the buffer it has consumed (R153). -/
theorem runInstrs_batch_acquire {ch : Chan} {s : State} (h : AtBatchStart s.cfg.batch (s.chan ch)) :
    runInstrs (beats ch s.cfg.batch ++ [.acquireBuffer ch]) s =
      .next (afterChannel s ch (acquired (streamed (s.chan ch))) none (.returned (.bufRef (s.chan ch).active))) := by
  have call := exec_acquireBuffer_of_complete (ch := ch) (s := s.setChan ch (streamed (s.chan ch)))
    (by rw [chan_setChan_same]; exact (by simp [(streamed_atBatchStart h).running])) (by rw [chan_setChan_same]; rfl)
  rw [chan_setChan_same] at call
  rw [runInstrs_append_of_next (runInstrs_batch h), runInstrs_singleton_of_next call, afterChannel,
    setChan_setChan_same]
  rfl

/-! ### The obligations -/

/-- Settles O10: by whether the channel is UNBUILT. -/
theorem constructGivesChannelItsValues : Obligations.ConstructGivesChannelItsValues := fun _ _ =>
  ⟨exec_construct_of_unbuilt, exec_construct_of_built⟩

/-- Settles O12: the call with the flag set. -/
theorem acquireRotatesAndReturnsConsumedBuffer : Obligations.AcquireRotatesAndReturnsConsumedBuffer := fun _ _ =>
  exec_acquireBuffer_of_complete

/-- Settles O13: a held caller's turn is the same call once more, which finds its own hold. -/
theorem acquireHoldsWhileNothingCompleted : Obligations.AcquireHoldsWhileNothingCompleted := by
  refine ⟨fun ch s => exec_acquireBuffer_of_waiting, fun ch s turns hheld hsched hbuilt htc => ?_⟩
  have turn : step s = swTurn s.popTurn := by simp only [step, hsched]
  have poll : swTurn s.popTurn = exec (.acquireBuffer ch) s.popTurn := swTurn_of_hold hheld
  have same_chan : s.popTurn.chan ch = s.chan ch := by cases ch <;> rfl
  rw [turn, poll, exec_acquireBuffer_of_waiting (by rwa [same_chan]) (by rwa [same_chan]), State.popTurn, hsched,
    ← hheld]
  rfl

/-- Settles O14: one clause per missing part of the precondition. -/
theorem channelCallsOutsideTheirPreconditionStop : Obligations.ChannelCallsOutsideTheirPreconditionStop := by
  refine fun ch i v s => ⟨fun h => ?_, fun h href => ?_, fun h href hi => ?_, exec_beat_of_not_running⟩
  · have stop := swBuffer_of_unbuilt i h
    exact ⟨exec_start_of_unbuilt h, exec_acquireBuffer_of_unbuilt h, exec_fill_of_error stop, exec_peek_of_error stop⟩
  · have stop := swBuffer_of_no_reference i h href
    exact ⟨exec_fill_of_error stop, exec_peek_of_error stop⟩
  · have stop := swBuffer_of_out_of_range h href hi
    exact ⟨exec_fill_of_error stop, exec_peek_of_error stop⟩

/-- Settles O15: the read-after-write laws of the buffers. -/
theorem fillStoresOneElement : Obligations.FillStoresOneElement := by
  intro ch i v b s hs hbuilt href hi
  have hbuf := (swBuffer_eq_ok_iff s ch i b).2 ⟨hbuilt, href, hi⟩
  have hwrite := (bufWrite_eq_some_iff (s.chan ch) _ b i v).2 ⟨swBuffer_length hs hbuf, rfl⟩
  refine ⟨_, exec_fill_of_ok hbuf hwrite, ?_⟩
  rw [afterChannel_chan_same]
  refine ⟨bufRead_bufWrite_same _ _ _ _ _ hwrite, fun d j => bufRead_bufWrite_other _ _ _ _ _ _ _ hwrite, ?_, ?_, ?_⟩
  · cases b <;> rfl
  · exact afterChannel_chan_of_ne _ _ _ _ _ (by cases ch <;> decide)
  · cases ch <;> rfl

/-- Settles O16: in a good state the element exists. -/
theorem peekReadsReferencedElement : Obligations.PeekReadsReferencedElement := by
  intro ch i b s hs hbuilt href hi
  have hbuf := (swBuffer_eq_ok_iff s ch i b).2 ⟨hbuilt, href, hi⟩
  have hread := List.getElem?_eq_getElem (swBuffer_length hs hbuf)
  exact ⟨_, hread, exec_peek_of_ok hbuf hread⟩

/-- Settles O19: the completion sets `tc` whatever it was. -/
theorem missedDeadlineLeavesNoTrace : Obligations.MissedDeadlineLeavesNoTrace := by
  intro ch s hs hmiss
  have ⟨⟨hrun, _⟩, hlast⟩ : ((s.chan ch).phase = .running ∧ (s.chan ch).tc = true) ∧
      s.cfg.batch ≤ (s.chan ch).idx + 1 := by simpa [Channel.missesDeadline] using hmiss
  obtain ⟨v, hread⟩ := builtInv_bufRead _ _ ((inv_chan s ch hs).2 (by simp [hrun]))
  have late := beatEmitsOneCodeAndCompletes ch s v _ (.inl rfl) hrun hread
  have timely := beatEmitsOneCodeAndCompletes ch (s.setChan ch { s.chan ch with tc := false }) v _ (.inl rfl)
    (by rw [chan_setChan_same]; exact hrun) (by rw [chan_setChan_same]; exact hread)
  refine ⟨_, late, timely.trans ?_⟩
  simp only [chan_setChan_same, setChan_cfg, setChan_setChan_same, if_neg (Nat.not_lt.2 hlast)]

/-- Settles O20: one batch. -/
theorem batchStreamsActiveBuffer : Obligations.BatchStreamsActiveBuffer := fun _ _ hrun hgood hidx =>
  runInstrs_batch ⟨hrun, hgood, hidx⟩

/-- Settles O21: three batches, with the two engine buffers swapped after each. -/
theorem unservedEngineRepeatsItsTwoBuffers : Obligations.UnservedEngineRepeatsItsTwoBuffers := by
  intro ch s hrun hgood hidx
  have start : AtBatchStart s.cfg.batch (s.chan ch) := ⟨hrun, hgood, hidx⟩
  have three : beats ch (3 * s.cfg.batch) =
      (beats ch s.cfg.batch ++ beats ch s.cfg.batch) ++ beats ch s.cfg.batch := by
    simp only [beats, List.replicate_append_replicate]
    congr 1
    omega
  have third := runInstrs_batch (ch := ch) (s := s.setChan ch (streamed (streamed (s.chan ch))))
    (by rw [setChan_cfg, chan_setChan_same]; exact streamed_atBatchStart (streamed_atBatchStart start))
  rw [setChan_cfg, chan_setChan_same, setChan_setChan_same] at third
  rw [three, runInstrs_append_of_next (runInstrs_two_batches start), third]
  rfl

/-- Settles O22: the call arms the buffer that was filling, so it is active in the second batch. -/
theorem handedOverBufferIsSecondNextBatch : Obligations.HandedOverBufferIsSecondNextBatch := by
  intro ch s hs hrun hidx htc
  have hbuilt : (s.chan ch).phase ≠ .unbuilt := by simp [hrun]
  have start : AtBatchStart s.cfg.batch (s.chan ch) := ⟨hrun, (inv_chan s ch hs).2 hbuilt, hidx⟩
  have batches := runInstrs_two_batches (ch := ch)
    (s := afterChannel s ch (acquired (s.chan ch)) none (.returned (.bufRef (s.chan ch).armed)))
    (by rw [afterChannel_cfg, afterChannel_chan_same]; exact acquired_atBatchStart start htc)
  rw [afterChannel_cfg, afterChannel_chan_same] at batches
  refine ⟨_, (runInstrs_cons_of_next (exec_acquireBuffer_of_complete hbuilt htc)).trans batches, ?_⟩
  rw [chan_setChan_same]
  rfl

/-- Settles O23: each completion swaps active and armed, each call swaps armed and filling. -/
theorem threeTimelyCallsReturnAllBuffers : Obligations.ThreeTimelyCallsReturnAllBuffers := by
  intro ch s hs hrun hidx htc
  have hbuilt : (s.chan ch).phase ≠ .unbuilt := by simp [hrun]
  have start : AtBatchStart s.cfg.batch (s.chan ch) := ⟨hrun, (inv_chan s ch hs).2 hbuilt, hidx⟩
  have after_first := acquired_atBatchStart start htc
  have after_second := acquired_atBatchStart (streamed_atBatchStart after_first) rfl
  have after_third := acquired_atBatchStart (streamed_atBatchStart after_second) rfl
  have first := exec_acquireBuffer_of_complete hbuilt htc
  have second := runInstrs_batch_acquire (ch := ch)
    (s := afterChannel s ch (acquired (s.chan ch)) none (.returned (.bufRef (s.chan ch).armed)))
    (by rw [afterChannel_cfg, afterChannel_chan_same]; exact after_first)
  rw [afterChannel_cfg, afterChannel_chan_same] at second
  have third := runInstrs_batch_acquire (ch := ch)
    (s := afterChannel (afterChannel s ch (acquired (s.chan ch)) none (.returned (.bufRef (s.chan ch).armed))) ch
      (acquired (streamed (acquired (s.chan ch)))) none (.returned (.bufRef (acquired (s.chan ch)).active)))
    (by rw [afterChannel_cfg, afterChannel_cfg, afterChannel_chan_same]; exact after_second)
  rw [afterChannel_cfg, afterChannel_cfg, afterChannel_chan_same] at third
  refine ⟨_, _, _, first, second, third, rfl, rfl, rfl, ?_⟩
  rw [afterChannel_chan_same]
  exact after_third.good.1

end Sys2Proof
end

section
/-! One bus transaction from any device (42_dds_primitives): the record, the draw and the device it leaves, said once
for a write and once for a read, and what the device itself makes of a write at each kind of register. -/

namespace Sys2Proof
open Sys2Proof.Machine

/-! ### The register addresses are distinct (00_scope R7) -/

/-- A register without side effects (42_dds_primitives R178 to R181). -/
structure PlainAddr (cfg : Params) (addr : Addr) : Prop where
  ne_partId : addr ≠ cfg.addrPartId
  ne_serial : addr ≠ cfg.addrSerial
  ne_ddsReset : addr ≠ cfg.addrDdsReset

section
variable {cfg : Params} (h : cfg.Wf)
include h

theorem addresses_nodup : cfg.addresses.Nodup := h.2.2.2.2.1

theorem serial_ne_partId : cfg.addrSerial ≠ cfg.addrPartId := by
  have := addresses_nodup h
  simp_all [Params.addresses]

theorem serial_ne_ddsReset : cfg.addrSerial ≠ cfg.addrDdsReset := by
  have := addresses_nodup h
  simp_all [Params.addresses]

theorem partId_ne_ddsReset : cfg.addrPartId ≠ cfg.addrDdsReset := by
  have := addresses_nodup h
  simp_all [Params.addresses]

theorem ndiv_ne_pll : cfg.addrNdiv ≠ cfg.addrPll := by
  have := addresses_nodup h
  simp_all [Params.addresses]

/-- The six addresses of the list after the part-ID, Serial-config and DDS-reset registers are taken out. -/
theorem plainAddr_of_mem {addr : Addr}
    (hmem : addr ∈ [cfg.addrPower, cfg.addrNdiv, cfg.addrPll, Config.addrFtw, cfg.addrPow, cfg.addrFsc]) :
    PlainAddr cfg addr := by
  have hnodup := addresses_nodup h
  simp only [Params.addresses, List.nodup_cons, List.mem_cons, List.not_mem_nil, not_or, or_false] at hnodup hmem
  obtain rfl | rfl | rfl | rfl | rfl | rfl := hmem <;> constructor <;> grind

end

theorem toNat_ne {a b : Addr} (h : a ≠ b) : a.toNat ≠ b.toNat := fun e => h (BitVec.eq_of_toNat_eq e)

/-! ### What the device makes of a write -/

section
variable {cfg : Params} (h : cfg.Wf) (d : Device) (p : List Byte)
include h

theorem write_toPartId : d.write cfg cfg.addrPartId p = d := by
  simp [Device.write, (serial_ne_partId h).symm, partId_ne_ddsReset h]

theorem write_toSerial_of_reset (hflag : (serialFieldsOf p).softReset = true) :
    d.write cfg cfg.addrSerial p = { d with regs := [], resetPending := false, resetTaken := false } := by
  simp [Device.write, Device.softReset, serial_ne_partId h, serial_ne_ddsReset h, hflag]

theorem write_toSerial_of_config (hflag : (serialFieldsOf p).softReset = false) :
    d.write cfg cfg.addrSerial p =
      { d with
        regs := Memory.set d.regs cfg.addrSerial.toNat p
        link := if (serialFieldsOf p).lsbFirst then .otherOrder else d.link } := by
  simp [Device.write, serial_ne_partId h, serial_ne_ddsReset h, hflag]

theorem write_toDdsReset :
    d.write cfg cfg.addrDdsReset p =
      { d with
        regs := Memory.set d.regs cfg.addrDdsReset.toNat p
        resetTaken := false, resetPending := d.resetPending || decide (p = [1#8]) } := by
  simp [Device.write, (partId_ne_ddsReset h).symm, (serial_ne_ddsReset h).symm]

end

theorem write_toPlain {cfg : Params} {addr : Addr} (ha : PlainAddr cfg addr) (d : Device) (p : List Byte) :
    d.write cfg addr p = { d with regs := Memory.set d.regs addr.toNat p } :=
  write_plain cfg d addr p ha.ne_partId ha.ne_serial ha.ne_ddsReset

/-- The flags the device reads from a mirrored byte are those of its low nibble (30_encoding R100, R111). -/
theorem serialFieldsOf_mirrorOf (f : Flags4) :
    serialFieldsOf [mirrorOf f] = ⟨f.getLsbD 0, f.getLsbD 1, f.getLsbD 2, f.getLsbD 3⟩ := by
  revert f; decide

/-! ### The machine after one transaction -/

/-- `s` after a transaction that appended `r` and left the device `dev` (R172). -/
def afterTx (s : State) (dev : Device) (r : TxRecord) : State :=
  { s with
    dev := dev, busDraws := s.busDraws.tail, draws := s.draws + 1
    dds := { s.dds with log := s.dds.log ++ [r] } }

theorem drawAt_afterTx (s : State) (dev : Device) (r : TxRecord) (k : Nat) :
    (afterTx s dev r).drawAt k = s.drawAt (k + 1) :=
  drawAt_takeDraw s k

theorem understands_iff (d : Device) : d.understands = true ↔ d.link = .inOrder := by
  cases hl : d.link <;> simp [Device.understands, hl]

theorem not_understands_of_link {d : Device} (h : d.link ≠ .inOrder) : d.understands = false :=
  Bool.eq_false_iff.2 (mt (understands_iff d).1 h)

/-- The device after a write that the bus carried: stored where the frame is read as the block means it (log 10). -/
def devWritten (s : State) (addr : Addr) (p : List Byte) : Device :=
  if s.dev.link = .inOrder then s.dev.write s.cfg addr p else s.dev.misread s.draws

/-- The device after a write that failed on the bus. -/
def devWriteFailed (s : State) (addr : Addr) (p : List Byte) : Device :=
  if s.dev.link = .inOrder then s.dev.writeFailed s.cfg addr p else s.dev.misread s.draws

/-- The device after a read, carried or failed. -/
def devAfterRead (s : State) : Device := if s.dev.link = .inOrder then s.dev else s.dev.misread s.draws

/-- The bytes a read that the bus carried is handed. -/
def bytesRead (s : State) (addr : Addr) (n : Nat) : List Byte :=
  if s.dev.link = .inOrder then s.dev.read s.cfg addr n s.draws else freeBytes s.draws n

section
variable (size : BitVec 2) (addr : Addr) (s : State)

theorem iwDecode_iwEncode_addr (rw : BitVec 1) : (iwDecode (iwEncode rw size addr)).addr = addr := by
  rw [iwDecode_iwEncode]

theorem writeStep_of_carried (p : List Byte) (next : State → State) (hd : s.drawAt 0 = none) :
    writeStep (iwEncode 0#1 size addr) p next s =
      next (afterTx s (devWritten s addr p) ⟨iwEncode 0#1 size addr, .write, p, true⟩) := by
  unfold devWritten
  split
  case isTrue hlink =>
    rw [writeStep_ok _ p next s hd (understands_of_order _ hlink), iwDecode_iwEncode_addr]
    rfl
  case isFalse hlink =>
    rw [writeStep_misread_ok _ p next s hd (not_understands_of_link hlink)]
    rfl

theorem writeStep_of_failed (p : List Byte) (next : State → State) {e : TransportError} (hd : s.drawAt 0 = some e) :
    writeStep (iwEncode 0#1 size addr) p next s =
      { afterTx s (devWriteFailed s addr p) ⟨iwEncode 0#1 size addr, .write, p, false⟩ with result := .busError e } := by
  unfold devWriteFailed
  split
  case isTrue hlink =>
    rw [writeStep_error _ p next s e hd (understands_of_order _ hlink), iwDecode_iwEncode_addr]
    rfl
  case isFalse hlink =>
    rw [writeStep_misread_error _ p next s e hd (not_understands_of_link hlink)]
    rfl

theorem busTransaction_read_carried (n : Nat) (hd : s.drawAt 0 = none) :
    busTransaction (headerBytes (iwEncode 1#1 size addr)) (.r n) s =
      (.ok (bytesRead s addr n),
        afterTx s (devAfterRead s) ⟨iwEncode 1#1 size addr, .read, bytesRead s addr n, true⟩) := by
  unfold devAfterRead bytesRead
  split
  case isTrue hlink =>
    rw [busTransaction_read_ok _ n s hd (understands_of_order _ hlink), iwDecode_iwEncode_addr]
    rfl
  case isFalse hlink =>
    simp [busTransaction, headerOfBytes_headerBytes, hd, not_understands_of_link hlink, afterTx]

theorem busTransaction_read_failed (n : Nat) {e : TransportError} (hd : s.drawAt 0 = some e) :
    busTransaction (headerBytes (iwEncode 1#1 size addr)) (.r n) s =
      (.error e, afterTx s (devAfterRead s) ⟨iwEncode 1#1 size addr, .read, [], false⟩) := by
  unfold devAfterRead
  split
  case isTrue hlink =>
    rw [busTransaction_read_error _ n s e hd (understands_of_order _ hlink)]
    rfl
  case isFalse hlink =>
    simp [busTransaction, headerOfBytes_headerBytes, hd, not_understands_of_link hlink, afterTx]

theorem readStep_of_carried (n : Nat) (next : List Byte → State → State) (hd : s.drawAt 0 = none) :
    readStep (iwEncode 1#1 size addr) n next s =
      next (bytesRead s addr n)
        (afterTx s (devAfterRead s) ⟨iwEncode 1#1 size addr, .read, bytesRead s addr n, true⟩) := by
  simp only [readStep, busTransaction_read_carried size addr s n hd]

theorem readStep_of_failed (n : Nat) (next : List Byte → State → State) {e : TransportError}
    (hd : s.drawAt 0 = some e) :
    readStep (iwEncode 1#1 size addr) n next s =
      { afterTx s (devAfterRead s) ⟨iwEncode 1#1 size addr, .read, [], false⟩ with result := .busError e } := by
  simp only [readStep, busTransaction_read_failed size addr s n hd, raiseBusError_eq]

theorem readInto_of_carried (n : Nat) (hd : s.drawAt 0 = none) :
    readInto (iwEncode 1#1 size addr) n s =
      { afterTx s (devAfterRead s) ⟨iwEncode 1#1 size addr, .read, bytesRead s addr n, true⟩ with
        outBuf := bytesRead s addr n, result := .returned (.bytes (bytesRead s addr n)) } := by
  simp only [readInto, busTransaction_read_carried size addr s n hd, returnValue_eq]

theorem readInto_of_failed (n : Nat) {e : TransportError} (hd : s.drawAt 0 = some e) :
    readInto (iwEncode 1#1 size addr) n s =
      { afterTx s (devAfterRead s) ⟨iwEncode 1#1 size addr, .read, [], false⟩ with
        outBuf := freeBytes s.draws n, result := .busError e } := by
  simp only [readInto, busTransaction_read_failed size addr s n hd, raiseBusError_eq]

theorem bytesRead_length (n : Nat) : (bytesRead s addr n).length = n := by
  unfold bytesRead
  split
  · exact read_length _ _ _ _ _
  · simp [freeBytes]

end

/-! ### What the statements say of the state after a write -/

section
variable {s t : State} {addr : Addr} {h : BitVec 16} {p : List Byte} {ok : Bool}

theorem otherRegistersKept_of_set (hregs : t.dev.regs = Memory.set s.dev.regs addr.toNat p) :
    s.OtherRegistersKept t addr := fun b hb => by rw [hregs, memory_get_set_other _ _ _ _ hb]

theorem get_of_set (hregs : t.dev.regs = Memory.set s.dev.regs addr.toNat p) :
    Memory.get t.dev.regs addr.toNat = some p := by rw [hregs, memory_get_set_same]

theorem wroteRegister_of_set (hdev : t.dev = { s.dev with regs := Memory.set s.dev.regs addr.toNat p })
    (hlog : s.LoggedWrite t h p true) : s.WroteRegister t addr h p :=
  have hregs : t.dev.regs = Memory.set s.dev.regs addr.toNat p := by rw [hdev]
  ⟨get_of_set hregs, otherRegistersKept_of_set hregs, by rw [hdev], hlog⟩

/-- A failed write forgets its register, and may have changed the bit order if that is Serial-config (log 21). -/
theorem failedRegister_of_writeFailed (hdev : t.dev = s.dev.writeFailed s.cfg addr p)
    (hlog : s.LoggedWrite t h p false) : s.FailedRegister t addr h p := by
  refine ⟨?_, fun b hb => ?_, ?_, fun ha => ?_, hlog⟩
  · rw [hdev]; exact memory_get_forget_same _ _
  · rw [hdev]; exact memory_get_forget_other _ _ _ hb
  · rw [hdev]; rfl
  · rw [hdev]; exact if_neg fun both => ha both.1

theorem registersLost_of_misread {n : Nat} (hdev : t.dev = s.dev.misread n) : s.RegistersLost t := by
  rw [State.RegistersLost, hdev]; rfl

/-- Whatever an operation does with the result, the rest of the transaction's state is as logged. -/
theorem loggedWrite_afterTx (s : State) (dev : Device) (r : Result) :
    s.LoggedWrite { afterTx s dev ⟨h, .write, p, ok⟩ with result := r } h p ok := rfl

end

/-! ### The primitives -/

theorem exec_write_of_size {addr : Addr} {p : List Byte} {size : BitVec 2} (hsize : sizeClass p.length = some size)
    (s : State) : exec (.write addr p) s = .next (writeStep (iwEncode 0#1 size addr) p returnOk s) := by
  simp only [exec, execWrite, headerFor_write addr p size hsize]

theorem exec_read_of_size {addr : Addr} {n : Nat} {size : BitVec 2} (hsize : sizeClass n = some size) (s : State) :
    exec (.read addr n) s = .next (readInto (iwEncode 1#1 size addr) n s) := by
  simp only [exec, execRead, headerFor_read addr n size hsize]

theorem sizeClass_of_stream {n : Nat} (h : 4 ≤ n) : sizeClass n = some 3#2 := by
  match n, h with
  | _ + 4, _ => rfl

section
variable {addr : Addr} {p : List Byte} {size : BitVec 2} {s : State}

theorem exec_write_carried (hsize : sizeClass p.length = some size) (hd : s.drawAt 0 = none) :
    exec (.write addr p) s = .next
      { afterTx s (devWritten s addr p) ⟨iwEncode 0#1 size addr, .write, p, true⟩ with result := .returned .unit } := by
  rw [exec_write_of_size hsize, writeStep_of_carried _ _ _ _ _ hd, returnOk_eq]

theorem devWritten_of_inOrder (hlink : s.dev.link = .inOrder) : devWritten s addr p = s.dev.write s.cfg addr p :=
  if_pos hlink

theorem devWritten_of_other (hlink : s.dev.link ≠ .inOrder) : devWritten s addr p = s.dev.misread s.draws :=
  if_neg hlink

end

/-- What a write form is: the write of its bytes, carried, with one record, on either bit order. -/
theorem writeForm_of_write {i : Instr} {addr : Addr} {p : List Byte} {size : BitVec 2} {s : State}
    (hform : exec i s = exec (.write addr p) s) (hsize : sizeClass p.length = some size) (hd : s.drawAt 0 = none) :
    ∃ t, exec i s = .next t ∧ exec (.write addr p) s = .next t ∧ t.result = .returned .unit ∧
      t.dds = { s.dds with log := s.dds.log ++ [⟨iwEncode 0#1 size addr, .write, p, true⟩] } ∧
      (s.dev.link = .otherOrder → s.RegistersLost t) :=
  have written := exec_write_carried (addr := addr) hsize hd
  ⟨_, hform.trans written, written, rfl, rfl, fun hlink =>
    registersLost_of_misread (devWritten_of_other (by simp [hlink]))⟩

/-- What a read form is: the read of that many bytes. -/
theorem readForm_of_read {i : Instr} {addr : Addr} {n : Nat} {size : BitVec 2} {s : State}
    (hform : exec i s = exec (.read addr n) s) (hsize : sizeClass n = some size) (hd : s.drawAt 0 = none) :
    ∃ t, exec i s = .next t ∧ exec (.read addr n) s = .next t ∧ t.result = .returned (.bytes t.outBuf) ∧
      t.outBuf.length = n ∧
      t.dds = { s.dds with log := s.dds.log ++ [⟨iwEncode 1#1 size addr, .read, t.outBuf, true⟩] } ∧
      (s.dev.link = .otherOrder → s.RegistersLost t) := by
  have answer := exec_read_of_size (addr := addr) hsize s
  rw [readInto_of_carried _ _ _ _ hd] at answer
  exact ⟨_, hform.trans answer, answer, rfl, bytesRead_length _ _ _, rfl, fun hlink =>
    registersLost_of_misread (if_neg (by simp [hlink]))⟩

/-! ### The obligations -/

/-- Settles O8: a length 0 has no header, and a stream form checks its length. -/
theorem sizeClassOfLength : Obligations.SizeClassOfLength :=
  ⟨rfl, rfl, rfl, rfl, fun _ => sizeClass_of_stream, fun _ _ => ⟨rfl, rfl⟩,
    fun _ _ _ short => if_neg (Nat.not_le.2 short), fun _ _ _ short => if_neg (Nat.not_le.2 short)⟩

/-- Settles O27: a plain register only stores. -/
theorem writeStoresPayloadAndLogs : Obligations.WriteStoresPayloadAndLogs := by
  intro addr p size s hsize hd hlink h1 h2 h3
  exact ⟨_, exec_write_carried hsize hd, rfl, wroteRegister_of_set
    ((devWritten_of_inOrder hlink).trans (write_toPlain ⟨h1, h2, h3⟩ _ _)) (loggedWrite_afterTx _ _ _)⟩

/-- Settles O28: one clause per register with an effect of its own. -/
theorem writesWithSideEffects : Obligations.WritesWithSideEffects := by
  intro p size s hsize hcfg hd hlink
  have answer := fun addr => exec_write_carried (addr := addr) hsize hd
  simp only [devWritten_of_inOrder hlink] at answer
  refine ⟨?partId, fun hflag => ?soft_reset, fun hflag => ?config, ?ddsReset⟩
  case partId =>
    have written := answer s.cfg.addrPartId
    rw [write_toPartId hcfg] at written
    exact ⟨_, written, rfl, rfl, rfl⟩
  case soft_reset =>
    have written := answer s.cfg.addrSerial
    rw [write_toSerial_of_reset hcfg _ _ hflag] at written
    exact ⟨_, written, rfl, rfl, rfl⟩
  case config =>
    have written := answer s.cfg.addrSerial
    rw [write_toSerial_of_config hcfg _ _ hflag, hlink] at written
    exact ⟨_, written, rfl, get_of_set rfl, otherRegistersKept_of_set rfl, rfl, rfl⟩
  case ddsReset =>
    have written := answer s.cfg.addrDdsReset
    rw [write_toDdsReset hcfg] at written
    exact ⟨_, written, rfl, get_of_set rfl, otherRegistersKept_of_set rfl, rfl, rfl⟩

/-- Settles O29: by the device's bit order. -/
theorem failedWriteForgetsItsRegister : Obligations.FailedWriteForgetsItsRegister := by
  intro addr p size e s hsize hd
  have answer := exec_write_of_size (addr := addr) hsize s
  rw [writeStep_of_failed _ _ _ _ _ hd] at answer
  refine ⟨_, answer, rfl, rfl, ?_⟩
  split
  case isTrue hlink => exact failedRegister_of_writeFailed (if_pos hlink) rfl
  case isFalse hlink => exact registersLost_of_misread (if_neg hlink)

/-- Settles O30: the bytes are those of the device's read. -/
theorem readReturnsWhatTheDeviceHolds : Obligations.ReadReturnsWhatTheDeviceHolds := by
  intro addr n size s hsize hd hlink
  have answer := exec_read_of_size (addr := addr) hsize s
  rw [readInto_of_carried _ _ _ _ hd, devAfterRead, if_pos hlink, bytesRead, if_pos hlink] at answer
  refine ⟨_, read_length _ _ _ _ _, answer, fun ha hn => if_pos ⟨ha, hn⟩, fun q hid hreset hget hlen => ?_⟩
  simp only [Device.read, if_neg hid, if_neg hreset, hget, if_pos hlen]

/-- Settles O31: by the device's bit order. -/
theorem failedReadLeavesTheDevice : Obligations.FailedReadLeavesTheDevice := by
  intro addr n size e s hsize hd
  have answer := exec_read_of_size (addr := addr) hsize s
  rw [readInto_of_failed _ _ _ _ hd] at answer
  refine ⟨_, _, (by simp [freeBytes] : (freeBytes s.draws n).length = n), answer, rfl, ?_⟩
  split
  case isTrue hlink => exact if_pos hlink
  case isFalse hlink => exact registersLost_of_misread (if_neg hlink)

/-- Settles O32: each form has the header that `write` derives from the length. -/
theorem writeFormsAreWrites : Obligations.WriteFormsAreWrites := by
  intro addr a b c d rest s hd
  have stream : 4 ≤ (a :: b :: c :: d :: rest).length := by simp
  refine ⟨writeForm_of_write rfl rfl hd, writeForm_of_write rfl rfl hd, writeForm_of_write rfl rfl hd,
    writeForm_of_write ?_ (sizeClass_of_stream stream) hd⟩
  rw [exec_write_of_size (sizeClass_of_stream stream)]
  simp only [exec, execDdsWrs, if_pos stream]

/-- Settles O33: each form has the header that `read` derives from the length. -/
theorem readFormsAreReads : Obligations.ReadFormsAreReads := by
  intro addr n s hd stream
  refine ⟨readForm_of_read rfl rfl hd, readForm_of_read rfl rfl hd, readForm_of_read rfl rfl hd,
    readForm_of_read ?_ (sizeClass_of_stream stream) hd⟩
  rw [exec_read_of_size (sizeClass_of_stream stream)]
  exact if_pos stream

end Sys2Proof
end

section
/-! The DDS operations of one write (43_dds_operations sections 2 and 4 to 6): a setter's write from any device, the
equation of each operation under its precondition, and the images the setters write. -/

namespace Sys2Proof
open Sys2Proof.Machine

/-! ### A setter's write (U11; logs 10 and 19) -/

/-- The device after a setter's write that the bus carried. -/
def devSetterWritten (s : State) (addr : Addr) (p : List Byte) : Device :=
  if s.dev.TakesSetters then s.dev.write s.cfg addr p else s.dev.misread s.draws

/-- The device after a setter's write that failed on the bus. -/
def devSetterFailed (s : State) (addr : Addr) (p : List Byte) : Device :=
  if s.dev.TakesSetters then s.dev.writeFailed s.cfg addr p else s.dev.misread s.draws

section
variable (size : BitVec 2) (addr : Addr) (s : State) (p : List Byte) (next : State → State)

/-- The next step must not look at the device, which a chip reset behind the block replaces after it. -/
theorem setterStep_of_carried (hn : ∀ u d, { next u with dev := d } = next { u with dev := d })
    (hd : s.drawAt 0 = none) :
    setterStep (iwEncode 0#1 size addr) p next s =
      next (afterTx s (devSetterWritten s addr p) ⟨iwEncode 0#1 size addr, .write, p, true⟩) := by
  have plain := writeStep_of_carried size addr s p next hd
  cases hseen : s.dev.resetUnseen with
  | false =>
    rw [setterStep_of_seen _ _ _ _ hseen, plain]
    simp only [devWritten, devSetterWritten, Device.TakesSetters, hseen, and_true]
  | true =>
    rw [setterStep_of_unseen _ _ _ _ hseen, plain, hn, devSetterWritten, if_neg (by simp [hseen])]
    rfl

theorem setterStep_of_failed {e : TransportError} (hd : s.drawAt 0 = some e) :
    setterStep (iwEncode 0#1 size addr) p next s =
      { afterTx s (devSetterFailed s addr p) ⟨iwEncode 0#1 size addr, .write, p, false⟩ with result := .busError e } := by
  have plain := writeStep_of_failed size addr s p next hd
  cases hseen : s.dev.resetUnseen with
  | false =>
    rw [setterStep_of_seen _ _ _ _ hseen, plain]
    simp only [devWriteFailed, devSetterFailed, Device.TakesSetters, hseen, and_true]
  | true =>
    rw [setterStep_of_unseen _ _ _ _ hseen, plain, devSetterFailed, if_neg (by simp [hseen])]
    rfl

end

/-- A setter's carried write to a plain register. -/
theorem setterWrote_of_dev {s t : State} {addr : Addr} {h : BitVec 16} {p : List Byte} (ha : PlainAddr s.cfg addr)
    (hdev : t.dev = devSetterWritten s addr p) (hlog : s.LoggedWrite t h p true) : s.SetterWrote t addr h p := by
  refine ⟨hlog, ?_⟩
  split
  case isTrue takes =>
    exact wroteRegister_of_set (hdev.trans ((if_pos takes).trans (write_toPlain ha _ _))) hlog
  case isFalse refuses => exact registersLost_of_misread (hdev.trans (if_neg refuses))

theorem setterFailed_of_dev {s t : State} {addr : Addr} {h : BitVec 16} {p : List Byte}
    (hdev : t.dev = devSetterFailed s addr p) (hlog : s.LoggedWrite t h p false) : s.SetterFailed t addr h p := by
  refine ⟨hlog, ?_⟩
  split
  case isTrue takes => exact failedRegister_of_writeFailed (hdev.trans (if_pos takes)) hlog
  case isFalse refuses => exact registersLost_of_misread (hdev.trans (if_neg refuses))

theorem drawAt_of_loggedWrite {s t : State} {h : BitVec 16} {p : List Byte} {ok : Bool} (hlog : s.LoggedWrite t h p ok)
    (k : Nat) : t.drawAt k = s.drawAt (k + 1) := by
  rw [hlog]
  exact drawAt_takeDraw s k

/-! ### An operation that is one setter's write -/

/-- `i` is, in `s`, one setter's write of `p` to `addr` that returns `v`. -/
def IsSetter (i : Instr) (s : State) (size : BitVec 2) (addr : Addr) (p : List Byte) (v : Value) : Prop :=
  exec i s = .next (setterStep (iwEncode 0#1 size addr) p (·.returnValue v) s)

section
variable {i : Instr} {s : State} {size : BitVec 2} {addr : Addr} {p : List Byte} {v : Value}
  (hi : IsSetter i s size addr p v)
include hi

theorem exec_setter_carried (hd : s.drawAt 0 = none) :
    exec i s = .next { afterTx s (devSetterWritten s addr p) ⟨iwEncode 0#1 size addr, .write, p, true⟩ with
      result := .returned v } := by
  rw [hi, setterStep_of_carried size addr s p (·.returnValue v) (fun _ _ => rfl) hd, returnValue_eq]

theorem setter_wrote (ha : PlainAddr s.cfg addr) (hd : s.drawAt 0 = none) :
    ∃ t, exec i s = .next t ∧ t.result = .returned v ∧ s.SetterWrote t addr (iwEncode 0#1 size addr) p :=
  ⟨_, exec_setter_carried hi hd, rfl, setterWrote_of_dev ha rfl rfl⟩

theorem setter_failed {e : TransportError} (hin : s.dds.inited = true) (hd : s.drawAt 0 = some e) :
    ∃ t h p, exec i s = .next t ∧ t.result = .busError e ∧ t.dds.inited = true ∧ s.SetterFailed t addr h p := by
  have answer : exec i s = _ := hi
  rw [setterStep_of_failed _ _ _ _ _ hd] at answer
  exact ⟨_, _, p, answer, rfl, hin, setterFailed_of_dev rfl rfl⟩

end

section
variable {s : State} (hin : s.dds.inited = true)
include hin

theorem ddsReset_isSetter : IsSetter .ddsReset s 0#2 s.cfg.addrDdsReset [1#8] .unit := if_pos hin
theorem setFtw_isSetter (w : Nat) : IsSetter (.setFtw w) s 3#2 0x01AB#13 (ftwImage w) .unit := if_pos hin
theorem setPow_isSetter (w : BitVec 14) : IsSetter (.setPow w) s 1#2 s.cfg.addrPow (powImage w) .unit := if_pos hin
theorem setFsc_isSetter (w : BitVec 10) : IsSetter (.setFsc w) s 1#2 s.cfg.addrFsc (fscImage w) .unit := if_pos hin

/-- A converting setter with a defined conversion is the setter of the converted word. -/
theorem programWord_of_some {α : Type} {word : Option α} {w : α} (hw : word = some w) (run : α → State → State) :
    programWord word run s = .next (run w s) := by
  simp only [programWord, hin, hw, if_true]

theorem setFrequency_isSetter {f clk : Rat} {w : BitVec 48} (hw : ftwOf f clk = some w) :
    IsSetter (.setFrequency f clk) s 3#2 0x01AB#13 (ftwImage w.toNat) (.ftw w) := by
  simp only [IsSetter, exec, execSetFrequency, programWord_of_some hin hw, Config.addrFtw]

theorem setPhase_isSetter {ph : Rat} {w : BitVec 14} (hw : powOf ph = some w) :
    IsSetter (.setPhase ph) s 1#2 s.cfg.addrPow (powImage w) (.pow w) := by
  simp only [IsSetter, exec, execSetPhase, programWord_of_some hin hw]

theorem setFullScaleCurrent_isSetter {fs r : Rat} {w : BitVec 10} (hw : fscOf fs r = some w) :
    IsSetter (.setFullScaleCurrent fs r) s 1#2 s.cfg.addrFsc (fscImage w) (.fsc w) := by
  simp only [IsSetter, exec, execSetFullScaleCurrent, programWord_of_some hin hw]

end

/-! ### The preconditions -/

theorem whenInited_of_cold {s : State} (h : s.dds.inited = false) (run : State → State) :
    whenInited run s = .refused .notInitialised := by
  simp [whenInited, h]

theorem programWord_of_cold {α : Type} {s : State} (h : s.dds.inited = false) (word : Option α)
    (run : α → State → State) : programWord word run s = .refused .notInitialised := by
  simp [programWord, h]

theorem programWord_of_none {α : Type} {s : State} (h : s.dds.inited = true) {word : Option α} (hw : word = none)
    (run : α → State → State) : programWord word run s = .refused .conversionRange := by
  simp [programWord, h, hw]

/-! ### Byte images (30_encoding R103 to R107) -/

theorem ofNat8_eq_of_mod {m n : Nat} (h : m % 2 ^ 8 = n % 2 ^ 8) : BitVec.ofNat 8 m = BitVec.ofNat 8 n :=
  BitVec.eq_of_toNat_eq (by rw [BitVec.toNat_ofNat, BitVec.toNat_ofNat, h])

theorem beBytes_two (v : Nat) : beBytes 2 v = [BitVec.ofNat 8 (v / 256), BitVec.ofNat 8 v] := by
  simp [beBytes]

/-- Cutting to 48 bits changes none of the six bytes. -/
theorem ftwImage_eq (w : Nat) : ftwImage w =
    [BitVec.ofNat 8 (w / 2 ^ 40), BitVec.ofNat 8 (w / 2 ^ 32), BitVec.ofNat 8 (w / 2 ^ 24), BitVec.ofNat 8 (w / 2 ^ 16),
      BitVec.ofNat 8 (w / 2 ^ 8), BitVec.ofNat 8 w] := by
  simp only [ftwImage, beBytes, List.cons.injEq, and_true]
  refine ⟨?_, ?_, ?_, ?_, ?_, ?_⟩ <;> apply ofNat8_eq_of_mod <;> omega

theorem ftwImage_word (w : BitVec 48) : ftwImage w.toNat = beBytes 6 w.toNat := by
  rw [ftwImage, Nat.mod_eq_of_lt w.isLt]

theorem powImage_eq (w : BitVec 14) : powImage w = beBytes 2 w.toNat := by
  rw [powImage, BitVec.toNat_setWidth_of_le (by decide)]

theorem fscImage_eq (w : BitVec 10) : fscImage w = beBytes 2 w.toNat := by
  rw [fscImage, BitVec.toNat_setWidth_of_le (by decide)]

theorem beBytes_two_value {v k : Nat} (hk : k ≤ 256) (hv : v < 256 * k) :
    ∃ a b : Byte, beBytes 2 v = [a, b] ∧ a.toNat < k ∧ a.toNat * 256 + b.toNat = v := by
  refine ⟨_, _, beBytes_two v, ?_, ?_⟩ <;> simp only [BitVec.toNat_ofNat] <;> omega

/-- Reading the bytes back gives the value, cut to their width. -/
theorem foldl_beBytes (n v acc : Nat) :
    (beBytes n v).foldl (fun acc b => acc * 256 + b.toNat) acc = acc * 2 ^ (8 * n) + v % 2 ^ (8 * n) := by
  induction n generalizing acc with
  | zero => simp [beBytes, Nat.mod_one]
  | succ n ih =>
    have top_and_rest : v % (2 ^ (8 * n) * 256) = v % 2 ^ (8 * n) + 2 ^ (8 * n) * (v / 2 ^ (8 * n) % 256) :=
      Nat.mod_mul
    have wider : (2 : Nat) ^ (8 * (n + 1)) = 2 ^ (8 * n) * 256 := by rw [Nat.mul_succ, Nat.pow_add]
    rw [beBytes, List.foldl_cons, ih, wider, top_and_rest, BitVec.toNat_ofNat]
    ring

theorem fromBe_beBytes_word (w : BitVec 48) : fromBe (beBytes 6 w.toNat) = w.toNat := by
  rw [fromBe, foldl_beBytes, Nat.zero_mul, Nat.zero_add, Nat.mod_eq_of_lt w.isLt]

/-! ### The obligations -/

/-- Settles O9: the image of each word. -/
theorem byteImagesAreBigEndian : Obligations.ByteImagesAreBigEndian := by
  refine ⟨ftwImage_eq, fun p => ?_, fun c => ?_, fun a b => ?_⟩
  · rw [powImage_eq]; exact beBytes_two_value (by decide) p.isLt
  · rw [fscImage_eq]; exact beBytes_two_value (by decide) c.isLt
  · have ha := a.isLt
    have hb := b.isLt
    simp [partIdValue, fromBe]
    omega

/-- The header of the tuning-word register (43_dds_operations R194). -/
theorem ftwHeader_eq : iwEncode 0#1 3#2 0x01AB#13 = 0x61AB#16 := by decide

section
variable {cfg : Params} (h : cfg.Wf)
include h

theorem ftw_plainAddr : PlainAddr cfg 0x01AB#13 := plainAddr_of_mem h (by simp [Config.addrFtw])
theorem pow_plainAddr : PlainAddr cfg cfg.addrPow := plainAddr_of_mem h (by simp)
theorem fsc_plainAddr : PlainAddr cfg cfg.addrFsc := plainAddr_of_mem h (by simp)

end

/-- Settles O41: three setters with the images of their words. -/
theorem wordSettersWriteTheirImages : Obligations.WordSettersWriteTheirImages := by
  intro s hcfg hin hd
  refine ⟨fun w => ?_, fun p => ?_, fun c => ?_⟩
  · rw [← ftwImage_eq, ← ftwHeader_eq]
    exact setter_wrote (setFtw_isSetter hin w) (ftw_plainAddr hcfg) hd
  · rw [← beBytes_two, ← powImage_eq]
    exact setter_wrote (setPow_isSetter hin p) (pow_plainAddr hcfg) hd
  · rw [← beBytes_two, ← fscImage_eq]
    exact setter_wrote (setFsc_isSetter hin c) (fsc_plainAddr hcfg) hd

/-- Settles O42: the same setters, of the converted words. -/
theorem convertingSettersReturnTheWordWritten : Obligations.ConvertingSettersReturnTheWordWritten := by
  intro s hcfg hin hd
  refine ⟨fun f clk w hw => ?_, fun ph w hw => ?_, fun fs r w hw => ?_⟩
  · rw [← ftwImage_word, ← ftwHeader_eq]
    exact setter_wrote (setFrequency_isSetter hin hw) (ftw_plainAddr hcfg) hd
  · rw [← powImage_eq]
    exact setter_wrote (setPhase_isSetter hin hw) (pow_plainAddr hcfg) hd
  · rw [← fscImage_eq]
    exact setter_wrote (setFullScaleCurrent_isSetter hin hw) (fsc_plainAddr hcfg) hd

/-- Settles O43: one case per operation, each a setter. -/
theorem oneStepOperationFailureForgetsItsTarget : Obligations.OneStepOperationFailureForgetsItsTarget := by
  rintro i addr s e hin hd (⟨rfl, rfl⟩ | ⟨⟨w, rfl⟩, rfl⟩ | ⟨⟨f, clk, w, rfl, hw⟩, rfl⟩ | ⟨⟨p, rfl⟩, rfl⟩ |
    ⟨⟨ph, w, rfl, hw⟩, rfl⟩ | ⟨⟨c, rfl⟩, rfl⟩ | ⟨⟨fs, r, w, rfl, hw⟩, rfl⟩)
  · exact setter_failed (ddsReset_isSetter hin) hin hd
  · exact setter_failed (setFtw_isSetter hin w) hin hd
  · exact setter_failed (setFrequency_isSetter hin hw) hin hd
  · exact setter_failed (setPow_isSetter hin p) hin hd
  · exact setter_failed (setPhase_isSetter hin hw) hin hd
  · exact setter_failed (setFsc_isSetter hin c) hin hd
  · exact setter_failed (setFullScaleCurrent_isSetter hin hw) hin hd

/-- Settles O44: the precondition is checked before the operands. -/
theorem operationsOutsideTheirPreconditionStop : Obligations.OperationsOutsideTheirPreconditionStop := by
  intro s a b w p c x y
  refine ⟨fun cold => ?_, fun hin => ⟨fun hw => ?_, fun hw => ?_, fun hw => ?_⟩⟩
  · simp only [exec, execSoftReset, execDdsReset, execSetPll, execSetFtw, execSetFrequency, execSetPow, execSetPhase,
      execSetFsc, execSetFullScaleCurrent, whenInited_of_cold cold, programWord_of_cold cold, and_self]
  · simp only [exec, execSetFrequency, programWord_of_none hin hw]
  · simp only [exec, execSetPhase, programWord_of_none hin hw]
  · simp only [exec, execSetFullScaleCurrent, programWord_of_none hin hw]

/-- Settles O45: what the setter stored is what the read sends, and its six bytes are the word. -/
theorem frequencyReadsBackExactly : Obligations.FrequencyReadsBackExactly := by
  intro f clk w s hcfg hin takes hd0 hd1 hw
  have plain := ftw_plainAddr hcfg
  obtain ⟨t, set, -, hlog, wrote⟩ := setter_wrote (setFrequency_isSetter hin hw) plain hd0
  rw [if_pos takes] at wrote
  obtain ⟨hget, -, hdev, -⟩ := wrote
  have same_cfg : t.cfg = s.cfg := by rw [hlog]
  have in_order : t.dev.link = .inOrder := by rw [hdev]; exact takes.1
  obtain ⟨bytes, hlen, read, -, stored⟩ :=
    readReturnsWhatTheDeviceHolds 0x01AB#13 6 3#2 t rfl ((drawAt_of_loggedWrite hlog 0).trans hd1) in_order
  rw [same_cfg] at stored
  have six_bytes : (ftwImage w.toNat).length = 6 := length_beBytes 6 _
  have sent : bytes = beBytes 6 w.toNat := by
    rw [stored _ (fun id => plain.ne_partId id.1) (fun reset => plain.ne_ddsReset reset.1) hget six_bytes.ge,
      List.take_of_length_le six_bytes.le, ftwImage_word]
  exact ⟨_, (runInstrs_cons_of_next set).trans (runInstrs_singleton_of_next read), rfl, hlen,
    (congrArg fromBe sent).trans (fromBe_beBytes_word w)⟩

end Sys2Proof
end

section
/-! The DDS operations that reset, and those of several transactions (43_dds_operations sections 2 and 3): what each
transaction of `set_pll` leaves, one equation for each way its draw can go, and the operation as their sequence. -/

namespace Sys2Proof
open Sys2Proof.Machine

section
variable {cfg : Params} (h : cfg.Wf)
include h

theorem power_plainAddr : PlainAddr cfg cfg.addrPower := plainAddr_of_mem h (by simp)
theorem ndiv_plainAddr : PlainAddr cfg cfg.addrNdiv := plainAddr_of_mem h (by simp)
theorem pll_plainAddr : PlainAddr cfg cfg.addrPll := plainAddr_of_mem h (by simp)

end

/-! ### Two registers written one after the other -/

section
variable {m : Memory} {a b : Addr} {p q : List Byte} (hab : a ≠ b)
include hab

theorem get_first_of_two_sets : Memory.get (Memory.set (Memory.set m a.toNat p) b.toNat q) a.toNat = some p := by
  rw [memory_get_set_other _ _ _ _ (toNat_ne hab), memory_get_set_same]

theorem get_first_of_set_forget : Memory.get (Memory.forget (Memory.set m a.toNat p) b.toNat) a.toNat = some p := by
  rw [memory_get_forget_other _ _ _ (toNat_ne hab), memory_get_set_same]

end

section
variable {m : Memory} {a b c : Nat} {p q : List Byte} (ha : c ≠ a) (hb : c ≠ b)
include ha hb

theorem get_other_of_two_sets : Memory.get (Memory.set (Memory.set m a p) b q) c = Memory.get m c := by
  rw [memory_get_set_other _ _ _ _ hb, memory_get_set_other _ _ _ _ ha]

theorem get_other_of_set_forget : Memory.get (Memory.forget (Memory.set m a p) b) c = Memory.get m c := by
  rw [memory_get_forget_other _ _ _ hb, memory_get_set_other _ _ _ _ ha]

end

/-! ### `soft_reset()` and `dds_reset()` -/

theorem exec_softReset_of_inited {s : State} (hin : s.dds.inited = true) :
    exec .softReset s = .next (writeStep (iwEncode 0#1 0#2 s.cfg.addrSerial) [mirrorOf s.cfg.serialReset] returnOk
      (s.setInited false)) := if_pos hin

/-- Settles O37: the write on the state with `dds.inited` cleared, by its draw and by the device's bit order. -/
theorem softResetForgetsConfiguration : Obligations.SoftResetForgetsConfiguration := by
  intro s hcfg hin
  have hflag : (serialFieldsOf [mirrorOf s.cfg.serialReset]).softReset = true := by
    rw [serialFieldsOf_mirrorOf]; exact hcfg.2.2.2.2.2.2
  have answer := exec_softReset_of_inited hin
  refine ⟨fun hd => ?_, fun e hd => ?_⟩
  · rw [writeStep_of_carried _ _ (s.setInited false) _ _ hd, returnOk_eq] at answer
    by_cases hlink : s.dev.link = .inOrder
    · have forgotten : devWritten (s.setInited false) s.cfg.addrSerial [mirrorOf s.cfg.serialReset] = _ :=
        (if_pos hlink).trans (write_toSerial_of_reset hcfg s.dev _ hflag)
      rw [forgotten] at answer
      exact ⟨_, answer, rfl, rfl, rfl, rfl, by rw [if_pos hlink]; rfl⟩
    · have lost : devWritten (s.setInited false) s.cfg.addrSerial [mirrorOf s.cfg.serialReset] = _ := if_neg hlink
      rw [lost] at answer
      exact ⟨_, answer, rfl, rfl, rfl, rfl, by rw [if_neg hlink]; exact registersLost_of_misread rfl⟩
  · rw [writeStep_of_failed _ _ (s.setInited false) _ _ hd] at answer
    by_cases hlink : s.dev.link = .inOrder
    · have failed : devWriteFailed (s.setInited false) s.cfg.addrSerial [mirrorOf s.cfg.serialReset] = _ := if_pos hlink
      rw [failed] at answer
      refine ⟨_, answer, rfl, rfl, memory_get_forget_same _ _, rfl, ?_⟩
      rw [if_pos hlink]
      exact failedRegister_of_writeFailed rfl rfl
    · have lost : devWriteFailed (s.setInited false) s.cfg.addrSerial [mirrorOf s.cfg.serialReset] = _ := if_neg hlink
      rw [lost] at answer
      exact ⟨_, answer, rfl, rfl, rfl, rfl, by rw [if_neg hlink]; exact registersLost_of_misread rfl⟩

theorem step_of_updateStrobe {s : State} {turns : List Turn} (h : s.sched = .updateStrobe :: turns) :
    step s = .next { s with sched := turns, dev := s.dev.strobe } := by
  simp only [step, h, State.popTurn, State.updateStrobe, List.tail_cons]

theorem step_of_chipReset {s : State} {turns : List Turn} (h : s.sched = .chipReset :: turns) :
    step s = .next { s with sched := turns, dev := s.dev.powerCycle s.dds.inited } := by
  simp only [step, h, State.popTurn, State.chipReset, List.tail_cons]

/-- Settles O38: the setter's write of 01, and the two turns. -/
theorem ddsResetWaitsForTheStrobe : Obligations.DdsResetWaitsForTheStrobe := by
  refine ⟨fun s hcfg hin hd => ?_, fun s turns h => ⟨_, step_of_updateStrobe h, rfl, rfl, rfl⟩,
    fun s turns h => step_of_chipReset h⟩
  have answer := exec_setter_carried (ddsReset_isSetter hin) hd
  by_cases takes : s.dev.TakesSetters
  · have pending : devSetterWritten s s.cfg.addrDdsReset [1#8] = _ := (if_pos takes).trans (write_toDdsReset hcfg _ _)
    rw [pending, decide_eq_true rfl, Bool.or_true] at answer
    exact ⟨_, answer, rfl, rfl, by rw [if_pos takes]; exact ⟨get_of_set rfl, otherRegistersKept_of_set rfl, rfl⟩⟩
  · have lost : devSetterWritten s s.cfg.addrDdsReset [1#8] = _ := if_neg takes
    rw [lost] at answer
    exact ⟨_, answer, rfl, rfl, by rw [if_neg takes]; exact registersLost_of_misread rfl⟩

/-! ### `set_pll()` -/

theorem exec_setPll_of_inited {s : State} (hin : s.dds.inited = true) (divider pllConfig : Byte) :
    exec (.setPll divider pllConfig) s = .next (setterStep (iwEncode 0#1 0#2 s.cfg.addrNdiv) [divider]
      (·.enterOp (.pllControl pllConfig)) s.leaveOp) := if_pos hin

/-- The caller before step 2 of `set_pll`, the N-divider written. -/
def afterNdiv (s : State) (divider pllConfig : Byte) : State :=
  (afterTx s.leaveOp (devSetterWritten s s.cfg.addrNdiv [divider])
    ⟨iwEncode 0#1 0#2 s.cfg.addrNdiv, .write, [divider], true⟩).enterOp (.pllControl pllConfig)

theorem exec_setPll_carried {s : State} (hin : s.dds.inited = true) (hd : s.drawAt 0 = none) (divider pllConfig : Byte) :
    exec (.setPll divider pllConfig) s = .next (afterNdiv s divider pllConfig) := by
  rw [exec_setPll_of_inited hin, setterStep_of_carried _ _ s.leaveOp _ _ (fun _ _ => rfl) hd]
  rfl

theorem exec_setPll_failed {s : State} (hin : s.dds.inited = true) {e : TransportError} (hd : s.drawAt 0 = some e)
    (divider pllConfig : Byte) :
    exec (.setPll divider pllConfig) s = .next
      { afterTx s.leaveOp (devSetterFailed s.leaveOp s.cfg.addrNdiv [divider])
          ⟨iwEncode 0#1 0#2 s.cfg.addrNdiv, .write, [divider], false⟩ with result := .busError e } := by
  rw [exec_setPll_of_inited hin, setterStep_of_failed _ _ s.leaveOp _ _ hd]

section
variable {s : State} {divider pllConfig : Byte}

theorem finishOp_afterNdiv_carried (hd : s.drawAt 1 = none) :
    (afterNdiv s divider pllConfig).finishOp =
      { afterTx (afterNdiv s divider pllConfig).leaveOp
          (devSetterWritten (afterNdiv s divider pllConfig) s.cfg.addrPll [pllConfig])
          ⟨iwEncode 0#1 0#2 s.cfg.addrPll, .write, [pllConfig], true⟩ with result := .returned .unit } := by
  have second : (afterNdiv s divider pllConfig).continueOp (.pllControl pllConfig) = _ :=
    setterStep_of_carried 0#2 s.cfg.addrPll (afterNdiv s divider pllConfig).leaveOp [pllConfig] returnOk
      (fun _ _ => rfl) ((drawAt_afterTx s.leaveOp _ _ 0).trans hd)
  rw [finishOp_of_some _ _ rfl, second]
  exact resumeOp_of_none _ rfl

theorem finishOp_afterNdiv_failed {e : TransportError} (hd : s.drawAt 1 = some e) :
    (afterNdiv s divider pllConfig).finishOp =
      { afterTx (afterNdiv s divider pllConfig).leaveOp
          (devSetterFailed (afterNdiv s divider pllConfig) s.cfg.addrPll [pllConfig])
          ⟨iwEncode 0#1 0#2 s.cfg.addrPll, .write, [pllConfig], false⟩ with result := .busError e } := by
  have second : (afterNdiv s divider pllConfig).continueOp (.pllControl pllConfig) = _ :=
    setterStep_of_failed 0#2 s.cfg.addrPll (afterNdiv s divider pllConfig).leaveOp [pllConfig] returnOk
      ((drawAt_afterTx s.leaveOp _ _ 0).trans hd)
  rw [finishOp_of_some _ _ rfl, second]
  exact resumeOp_of_none _ rfl

theorem afterNdiv_dev_of_takes (hcfg : s.cfg.Wf) (takes : s.dev.TakesSetters) :
    (afterNdiv s divider pllConfig).dev =
      { s.dev with regs := Memory.set s.dev.regs s.cfg.addrNdiv.toNat [divider] } :=
  (if_pos takes).trans (write_toPlain (ndiv_plainAddr hcfg) _ _)

/-- The first write leaves the bit order and the unseen reset as they were, so the second fares as the first. -/
theorem afterNdiv_takesSetters_iff (hcfg : s.cfg.Wf) :
    (afterNdiv s divider pllConfig).dev.TakesSetters ↔ s.dev.TakesSetters := by
  by_cases takes : s.dev.TakesSetters
  · rw [afterNdiv_dev_of_takes hcfg takes]
  · have lost : (afterNdiv s divider pllConfig).dev = s.dev.misread s.draws := if_neg takes
    rw [lost]
    exact Iff.rfl

theorem devSetterWritten_afterNdiv_of_takes (hcfg : s.cfg.Wf) (takes : s.dev.TakesSetters) :
    devSetterWritten (afterNdiv s divider pllConfig) s.cfg.addrPll [pllConfig] =
      { s.dev with
        regs := Memory.set (Memory.set s.dev.regs s.cfg.addrNdiv.toNat [divider]) s.cfg.addrPll.toNat [pllConfig] } := by
  rw [devSetterWritten, if_pos ((afterNdiv_takesSetters_iff hcfg).2 takes), afterNdiv_dev_of_takes hcfg takes]
  exact write_toPlain (pll_plainAddr hcfg) _ _

theorem devSetterFailed_afterNdiv_of_takes (hcfg : s.cfg.Wf) (takes : s.dev.TakesSetters) :
    devSetterFailed (afterNdiv s divider pllConfig) s.cfg.addrPll [pllConfig] =
      { s.dev with
        regs := Memory.forget (Memory.set s.dev.regs s.cfg.addrNdiv.toNat [divider]) s.cfg.addrPll.toNat } := by
  have bit_order : ¬ (s.cfg.addrPll = s.cfg.addrSerial ∧ (serialFieldsOf [pllConfig]).lsbFirst = true) :=
    fun both => (pll_plainAddr hcfg).ne_serial both.1
  rw [devSetterFailed, if_pos ((afterNdiv_takesSetters_iff hcfg).2 takes), afterNdiv_dev_of_takes hcfg takes,
    Device.writeFailed, show (afterNdiv s divider pllConfig).cfg = s.cfg from rfl, if_neg bit_order]

/-- A device that leaves the first effect open leaves the second open too. -/
theorem registersLost_afterNdiv (refuses : ¬ s.dev.TakesSetters) : s.RegistersLost (afterNdiv s divider pllConfig) :=
  registersLost_of_misread (if_neg refuses)

theorem registersLost_of_second {t : State} {n : Nat} (refuses : ¬ s.dev.TakesSetters)
    (hdev : t.dev = (afterNdiv s divider pllConfig).dev.misread n) : s.RegistersLost t := by
  have lost : (afterNdiv s divider pllConfig).dev = s.dev.misread s.draws := if_neg refuses
  exact registersLost_of_misread (n := n) (hdev.trans (by rw [lost]; rfl))

end

/-- Settles O39: both writes carried. -/
theorem setPllWritesBothRegistersInOrder : Obligations.SetPllWritesBothRegistersInOrder := by
  intro divider pllConfig s hcfg hin hd0 hd1
  have second := finishOp_afterNdiv_carried (divider := divider) (pllConfig := pllConfig) hd1
  by_cases takes : s.dev.TakesSetters
  · rw [devSetterWritten_afterNdiv_of_takes hcfg takes] at second
    have ndiv_regs := congrArg Device.regs
      (afterNdiv_dev_of_takes (divider := divider) (pllConfig := pllConfig) hcfg takes)
    refine ⟨_, _, exec_setPll_carried hin hd0 divider pllConfig, rfl, second, rfl, ?_, rfl, ?_⟩
    · simp [afterTx, afterNdiv]
    · rw [if_pos takes]
      exact ⟨get_of_set ndiv_regs, otherRegistersKept_of_set ndiv_regs, get_first_of_two_sets (ndiv_ne_pll hcfg),
        memory_get_set_same _ _ _, fun b hn hp => get_other_of_two_sets hn hp, rfl⟩
  · refine ⟨_, _, exec_setPll_carried hin hd0 divider pllConfig, rfl, second, rfl, ?_, rfl, ?_⟩
    · simp [afterTx, afterNdiv]
    · rw [if_neg takes]
      exact ⟨registersLost_afterNdiv takes,
        registersLost_of_second takes (if_neg (mt (afterNdiv_takesSetters_iff hcfg).1 takes))⟩

/-- Settles O40: the first write failed, or the second. -/
theorem setPllFailureLeavesFirstWrite : Obligations.SetPllFailureLeavesFirstWrite := by
  intro divider pllConfig s e hcfg hin
  refine ⟨fun hd => ⟨_, exec_setPll_failed hin hd divider pllConfig, finishOp_of_none _ rfl, rfl, hin,
    setterFailed_of_dev rfl rfl⟩, fun hd0 hd1 => ?_⟩
  have second := finishOp_afterNdiv_failed (divider := divider) (pllConfig := pllConfig) hd1
  by_cases takes : s.dev.TakesSetters
  · rw [devSetterFailed_afterNdiv_of_takes hcfg takes] at second
    refine ⟨_, _, exec_setPll_carried hin hd0 divider pllConfig, second, rfl, ?_, rfl, ?_⟩
    · simp [afterTx, afterNdiv]
    · rw [if_pos takes]
      exact ⟨get_first_of_set_forget (ndiv_ne_pll hcfg), memory_get_forget_same _ _,
        fun b hn hp => get_other_of_set_forget hn hp, rfl⟩
  · refine ⟨_, _, exec_setPll_carried hin hd0 divider pllConfig, second, rfl, ?_, rfl, ?_⟩
    · simp [afterTx, afterNdiv]
    · rw [if_neg takes]
      exact registersLost_of_second takes (if_neg (mt (afterNdiv_takesSetters_iff hcfg).1 takes))

end Sys2Proof
end

section
/-! `init()` (43_dds_operations R190): what each of its three transactions leaves, one equation for each way its draw
can go, and what `init` comes to on a device that misreads every frame (70_reset_and_hazards R296). -/

namespace Sys2Proof
open Sys2Proof.Machine

/-! ### Step 1: the Serial-config write -/

/-- The device after the Serial-config write of `init`, in the block's bit order. -/
def initSerialDev (s : State) : Device :=
  { s.dev with regs := Memory.set s.dev.regs s.cfg.addrSerial.toNat [mirrorOf s.cfg.serialInit] }

/-- The caller before step 2 of `init`. -/
def afterInitSerial (s : State) : State :=
  (afterTx s.leaveOp (initSerialDev s)
    ⟨iwEncode 0#1 0#2 s.cfg.addrSerial, .write, [mirrorOf s.cfg.serialInit], true⟩).enterOp .initReadId

theorem exec_init (s : State) :
    exec .init s = .next (writeStep (iwEncode 0#1 0#2 s.cfg.addrSerial) [mirrorOf s.cfg.serialInit]
      (·.enterOp .initReadId) s.leaveOp) := rfl

/-- With the soft-reset flag clear, by R7, and the bit-order flag clear, by the standing premise, the byte is only
stored. -/
theorem exec_init_carried {s : State} (hcfg : s.cfg.Wf) (hlsb : s.cfg.serialInit.getLsbD 1 = false)
    (hlink : s.dev.link = .inOrder) (hd : s.drawAt 0 = none) : exec .init s = .next (afterInitSerial s) := by
  obtain ⟨-, -, -, -, -, no_reset, -⟩ := id hcfg
  have hflags := serialFieldsOf_mirrorOf s.cfg.serialInit
  have stored : devWritten s.leaveOp s.cfg.addrSerial [mirrorOf s.cfg.serialInit] = initSerialDev s := by
    refine (devWritten_of_inOrder hlink).trans
      ((write_toSerial_of_config hcfg s.dev _ (by rw [hflags]; exact no_reset)).trans ?_)
    rw [hflags, hlsb]
    rfl
  rw [exec_init, writeStep_of_carried _ _ s.leaveOp _ _ hd, stored]
  rfl

theorem exec_init_failed {s : State} {e : TransportError} (hlink : s.dev.link = .inOrder) (hd : s.drawAt 0 = some e) :
    exec .init s = .next
      { afterTx s.leaveOp (s.dev.writeFailed s.cfg s.cfg.addrSerial [mirrorOf s.cfg.serialInit])
          ⟨iwEncode 0#1 0#2 s.cfg.addrSerial, .write, [mirrorOf s.cfg.serialInit], false⟩ with
        result := .busError e } := by
  have failed : devWriteFailed s.leaveOp s.cfg.addrSerial [mirrorOf s.cfg.serialInit] = _ := if_pos hlink
  rw [exec_init, writeStep_of_failed _ _ s.leaveOp _ _ hd, failed]
  rfl

/-! ### Steps 2 and 3 -/

section
variable {s : State} (hlink : s.dev.link = .inOrder)
include hlink

/-- The part-ID register answers with the identity, and its two bytes are that value again (R106, R179). -/
theorem initReadId_carried (hd : s.drawAt 0 = none) :
    initReadId s =
      if s.dev.id = Config.partId then
        (afterTx s s.dev ⟨iwEncode 1#1 1#2 s.cfg.addrPartId, .read, beBytes 2 s.dev.id.toNat, true⟩).enterOp .initPower
      else
        { afterTx s s.dev ⟨iwEncode 1#1 1#2 s.cfg.addrPartId, .read, beBytes 2 s.dev.id.toNat, true⟩ with
          result := .identityError s.dev.id } := by
  have bytes_eq : bytesRead s s.cfg.addrPartId 2 = beBytes 2 s.dev.id.toNat := (if_pos hlink).trans (if_pos ⟨rfl, rfl⟩)
  have dev_eq : devAfterRead s = s.dev := if_pos hlink
  have value_eq : partIdValue (beBytes 2 s.dev.id.toNat) = s.dev.id := headerOfBytes_headerBytes s.dev.id
  rw [initReadId, readStep_of_carried _ _ _ _ _ hd, bytes_eq, dev_eq, value_eq]
  rfl

theorem initReadId_failed {e : TransportError} (hd : s.drawAt 0 = some e) :
    initReadId s = { afterTx s s.dev ⟨iwEncode 1#1 1#2 s.cfg.addrPartId, .read, [], false⟩ with
      result := .busError e } := by
  have dev_eq : devAfterRead s = s.dev := if_pos hlink
  rw [initReadId, readStep_of_failed _ _ _ _ _ hd, dev_eq]

theorem initPower_carried (hcfg : s.cfg.Wf) (hd : s.drawAt 0 = none) :
    initPower s = returnOk
      (afterTx s { s.dev with regs := Memory.set s.dev.regs s.cfg.addrPower.toNat [s.cfg.powerInit] }
        ⟨iwEncode 0#1 0#2 s.cfg.addrPower, .write, [s.cfg.powerInit], true⟩).initDone := by
  rw [initPower, writeByte, writeStep_of_carried _ _ _ _ _ hd, devWritten_of_inOrder hlink,
    write_toPlain (power_plainAddr hcfg)]

theorem initPower_failed (hcfg : s.cfg.Wf) {e : TransportError} (hd : s.drawAt 0 = some e) :
    initPower s =
      { afterTx s { s.dev with regs := Memory.forget s.dev.regs s.cfg.addrPower.toNat }
          ⟨iwEncode 0#1 0#2 s.cfg.addrPower, .write, [s.cfg.powerInit], false⟩ with result := .busError e } := by
  have failed : devWriteFailed s s.cfg.addrPower [s.cfg.powerInit] = _ := if_pos hlink
  have bit_order : ¬ (s.cfg.addrPower = s.cfg.addrSerial ∧ (serialFieldsOf [s.cfg.powerInit]).lsbFirst = true) :=
    fun both => (power_plainAddr hcfg).ne_serial both.1
  rw [initPower, writeByte, writeStep_of_failed _ _ _ _ _ hd, failed, Device.writeFailed, if_neg bit_order]

end

/-! ### The operation after its step 1 -/

/-- The caller before step 3 of `init`. -/
def afterInitReadId (s : State) : State :=
  (afterTx (afterInitSerial s).leaveOp (initSerialDev s)
    ⟨iwEncode 1#1 1#2 s.cfg.addrPartId, .read, beBytes 2 s.dev.id.toNat, true⟩).enterOp .initPower

theorem drawAt_afterInitSerial (s : State) (k : Nat) : (afterInitSerial s).leaveOp.drawAt k = s.drawAt (k + 1) :=
  drawAt_afterTx s.leaveOp _ _ k

theorem drawAt_afterInitReadId (s : State) (k : Nat) : (afterInitReadId s).leaveOp.drawAt k = s.drawAt (k + 2) :=
  (drawAt_afterTx (afterInitSerial s).leaveOp _ _ k).trans (drawAt_afterInitSerial s (k + 1))

section
variable {s : State} (hlink : s.dev.link = .inOrder)
include hlink

theorem finishOp_afterInitSerial_failed {e : TransportError} (hd : s.drawAt 1 = some e) :
    (afterInitSerial s).finishOp =
      { afterTx (afterInitSerial s).leaveOp (initSerialDev s)
          ⟨iwEncode 1#1 1#2 s.cfg.addrPartId, .read, [], false⟩ with result := .busError e } := by
  have second : (afterInitSerial s).continueOp .initReadId = _ :=
    initReadId_failed (s := (afterInitSerial s).leaveOp) hlink ((drawAt_afterInitSerial s 0).trans hd)
  rw [finishOp_of_some _ _ rfl, second]
  exact resumeOp_of_none _ rfl

theorem finishOp_afterInitSerial_wrong_identity (hid : s.dev.id ≠ Config.partId) (hd : s.drawAt 1 = none) :
    (afterInitSerial s).finishOp =
      { afterTx (afterInitSerial s).leaveOp (initSerialDev s)
          ⟨iwEncode 1#1 1#2 s.cfg.addrPartId, .read, beBytes 2 s.dev.id.toNat, true⟩ with
        result := .identityError s.dev.id } := by
  have second : (afterInitSerial s).continueOp .initReadId = _ :=
    (initReadId_carried (s := (afterInitSerial s).leaveOp) hlink ((drawAt_afterInitSerial s 0).trans hd)).trans
      (if_neg hid)
  rw [finishOp_of_some _ _ rfl, second]
  exact resumeOp_of_none _ rfl

theorem finishOp_afterInitSerial_of_identity (hid : s.dev.id = Config.partId) (hd : s.drawAt 1 = none) :
    (afterInitSerial s).finishOp = initPower (afterInitReadId s).leaveOp := by
  have second : (afterInitSerial s).continueOp .initReadId = afterInitReadId s :=
    (initReadId_carried (s := (afterInitSerial s).leaveOp) hlink ((drawAt_afterInitSerial s 0).trans hd)).trans
      (if_pos hid)
  rw [finishOp_of_some _ _ rfl, second]
  exact resumeOp_of_some (afterInitReadId s) .initPower rfl

end

/-! ### A device that misreads every frame -/

/-- The device is in the other bit order and holds nothing known, and the caller stands at `o`. -/
structure LostAt (s : State) (o : Option OpStep) : Prop where
  op : s.ddsOp = o
  otherOrder : s.dev.link = .otherOrder
  noRegister : s.dev.regs = []

theorem busTransaction_lostAt (header : List Byte) (part : BusPart) {s : State} (hlink : s.dev.link = .otherOrder) :
    LostAt (busTransaction header part s).2 s.ddsOp := by
  have misread := busTransaction_misread header part s (not_understands_of_link (by simp [hlink]))
  obtain ⟨dev, r, frame⟩ := busTransaction_frame header part s
  exact ⟨by rw [frame], by rw [misread]; exact hlink, by rw [misread]; rfl⟩

theorem raiseBusError_lostAt {s : State} {o : Option OpStep} (e : TransportError) (h : LostAt s o) :
    LostAt (s.raiseBusError e) o := ⟨h.op, h.otherOrder, h.noRegister⟩

theorem exec_init_of_otherOrder {s : State} (hlink : s.dev.link = .otherOrder) :
    ∃ t, exec .init s = .next t ∧ (LostAt t none ∨ LostAt t (some .initReadId)) := by
  have bus := fun header part => busTransaction_lostAt header part (s := s.leaveOp) hlink
  refine ⟨_, exec_init s, ?_⟩
  obtain ⟨e, failed⟩ | went_on := writeStep_cases (iwEncode 0#1 0#2 s.cfg.addrSerial) [mirrorOf s.cfg.serialInit]
    (·.enterOp .initReadId) s.leaveOp
  · rw [failed]; exact .inl (raiseBusError_lostAt e (bus _ _))
  · rw [went_on]; exact .inr ⟨rfl, (bus _ _).otherOrder, (bus _ _).noRegister⟩

theorem initReadId_of_otherOrder {s : State} (hlink : s.dev.link = .otherOrder) (hop : s.ddsOp = none) :
    LostAt (initReadId s) none ∨ LostAt (initReadId s) (some .initPower) := by
  have bus := fun header part => hop ▸ busTransaction_lostAt header part hlink
  unfold initReadId
  obtain ⟨e, failed⟩ | ⟨bytes, went_on⟩ := readStep_cases (iwEncode 1#1 1#2 s.cfg.addrPartId) 2 _ s
  · rw [failed]; exact .inl (raiseBusError_lostAt e (bus _ _))
  · rw [went_on]
    split
    · exact .inr ⟨rfl, (bus _ _).otherOrder, (bus _ _).noRegister⟩
    · exact .inl ⟨(bus _ _).op, (bus _ _).otherOrder, (bus _ _).noRegister⟩

theorem initPower_of_otherOrder {s : State} (hlink : s.dev.link = .otherOrder) (hop : s.ddsOp = none) :
    LostAt (initPower s) none := by
  have bus := fun header part => hop ▸ busTransaction_lostAt header part hlink
  unfold initPower writeByte
  obtain ⟨e, failed⟩ | went_on := writeStep_cases (iwEncode 0#1 0#2 s.cfg.addrPower) [s.cfg.powerInit] _ s
  · rw [failed]; exact raiseBusError_lostAt e (bus _ _)
  · rw [went_on]; exact ⟨(bus _ _).op, (bus _ _).otherOrder, (bus _ _).noRegister⟩

theorem finishOp_of_lostAt_initReadId {s : State} (h : LostAt s (some .initReadId)) : LostAt s.finishOp none := by
  rw [finishOp_of_some _ _ h.op]
  have second : LostAt (s.continueOp .initReadId) none ∨ LostAt (s.continueOp .initReadId) (some .initPower) :=
    initReadId_of_otherOrder (s := s.leaveOp) h.otherOrder rfl
  obtain ended | at_power := second
  · rwa [resumeOp_of_none _ ended.op]
  · rw [resumeOp_of_some _ _ at_power.op]
    exact initPower_of_otherOrder (s := (s.continueOp .initReadId).leaveOp) at_power.otherOrder rfl

/-! ### The obligations -/

/-- Settles O34: three carried transactions with the expected identity. -/
theorem initSucceedsOnTheExpectedChip : Obligations.InitSucceedsOnTheExpectedChip := by
  intro s hcfg hlsb hid hlink hd0 hd1 hd2
  have serial_ne_power := (power_plainAddr hcfg).ne_serial.symm
  have finish := (finishOp_afterInitSerial_of_identity hlink hid hd1).trans
    (initPower_carried (s := (afterInitReadId s).leaveOp) hlink hcfg ((drawAt_afterInitReadId s 0).trans hd2))
  have identity_bytes : beBytes 2 s.dev.id.toNat = [0x19#8, 0x82#8] := by rw [hid]; decide
  refine ⟨_, _, exec_init_carried hcfg hlsb hlink hd0, rfl, finish, rfl, ?_, get_first_of_two_sets serial_ne_power,
    memory_get_set_same _ _ _, fun b hs hp => get_other_of_two_sets hs hp, rfl, ?_⟩
  · simp [afterTx, afterInitReadId, afterInitSerial, identity_bytes]
  · simp [afterTx, afterInitReadId, afterInitSerial]

/-- Settles O35: the operation ends at the comparison of step 2. -/
theorem initReportsWrongIdentity : Obligations.InitReportsWrongIdentity := by
  intro s hcfg hlsb hid hlink hd0 hd1
  refine ⟨_, _, exec_init_carried hcfg hlsb hlink hd0, finishOp_afterInitSerial_wrong_identity hlink hid hd1, rfl, ?_,
    memory_get_set_same _ _ _, otherRegistersKept_of_set rfl, rfl⟩
  simp [afterTx, afterInitSerial]

/-- Settles O36: the failure at each of the three steps, and the device that misreads them all. -/
theorem initStopsAtTheFirstFailingStep : Obligations.InitStopsAtTheFirstFailingStep := by
  refine ⟨fun s e hcfg hlsb hlink => ⟨fun hd0 => ?_, fun hd0 hd1 => ?_, fun hd0 hd1 hid hd2 => ?_⟩, fun s hlink => ?_⟩
  · refine ⟨_, exec_init_failed hlink hd0, finishOp_of_none _ rfl, rfl, rfl, rfl, ?_, memory_get_forget_same _ _,
      fun b hb => memory_get_forget_other _ _ _ hb⟩
    simp [afterTx]
  · refine ⟨_, _, exec_init_carried hcfg hlsb hlink hd0, finishOp_afterInitSerial_failed hlink hd1, rfl, rfl, rfl, ?_,
      memory_get_set_same _ _ _, otherRegistersKept_of_set rfl⟩
    simp [afterTx, afterInitSerial]
  · have finish := (finishOp_afterInitSerial_of_identity hlink hid hd1).trans
      (initPower_failed (s := (afterInitReadId s).leaveOp) hlink hcfg ((drawAt_afterInitReadId s 0).trans hd2))
    refine ⟨_, _, exec_init_carried hcfg hlsb hlink hd0, finish, rfl, rfl, rfl, ?_, memory_get_forget_same _ _,
      get_first_of_set_forget (power_plainAddr hcfg).ne_serial.symm, fun b hs hp => get_other_of_set_forget hs hp⟩
    simp [afterTx, afterInitReadId, afterInitSerial]
  · obtain ⟨t, answer, ended | at_readId⟩ := exec_init_of_otherOrder hlink
    · have finished := finishOp_of_none t ended.op
      exact ⟨t, answer, by rw [finished]; exact ended.op, by rw [finished]; exact ended.otherOrder,
        by rw [finished]; exact ended.noRegister⟩
    · obtain ⟨hop, hother, hregs⟩ := finishOp_of_lostAt_initReadId at_readId
      exact ⟨t, answer, hop, hother, hregs⟩

end Sys2Proof
end

section
/-! Pure functions: the laws of `voltage` (40_code_voltage R133), the mirrored byte (30_encoding R100, R101, R111),
rounding (00_scope R9) and the inverse conversions (44_numeric_conversions R232). -/

namespace Sys2Proof
open Sys2Proof.Machine

/-! ### The laws of `voltage` -/

/-- In volts a code counts in steps of 1/3200 from code 0. -/
theorem voltageOf_sub (a b : Code) : voltageOf a - voltageOf b = ((a.toNat : Rat) - b.toNat) / 3200 := by
  rw [voltageOf_eq, voltageOf_eq]; ring

theorem voltageOf_codeOf {k : Int} (hlo : -32768 ≤ k) (hhi : k ≤ 32767) :
    voltageOf (codeOf (BitVec.ofInt 16 k)) = (k : Rat) / 3200 := by
  rw [voltageOf, signedOf_codeOf hlo hhi]; ring

theorem voltageOf_lt {a b : Code} (h : a < b) : voltageOf a < voltageOf b := by
  have hlt : (a.toNat : Rat) < b.toNat := by exact_mod_cast BitVec.lt_def.1 h
  have := voltageOf_sub b a
  linarith

theorem voltageOf_symmetric {d : Nat} (h : d ≤ 32767) :
    voltageOf (BitVec.ofNat 16 (32768 + d)) = -voltageOf (BitVec.ofNat 16 (32768 - d)) := by
  have above : (BitVec.ofNat 16 (32768 + d)).toNat = 32768 + d := by rw [BitVec.toNat_ofNat]; omega
  have below : (BitVec.ofNat 16 (32768 - d)).toNat = 32768 - d := by rw [BitVec.toNat_ofNat]; omega
  rw [voltageOf_eq, voltageOf_eq, above, below, Nat.cast_sub (by omega)]
  push_cast
  ring

/-- Only the last code has no successor. -/
theorem voltageOf_succ_sub {c : Code} (h : c ≠ 0xFFFF#16) : voltageOf (c + 1#16) - voltageOf c = 1 / 3200 := by
  have hne : c.toNat ≠ 65535 := fun e => h (BitVec.eq_of_toNat_eq e)
  have succ : (c + 1#16).toNat = c.toNat + 1 := by
    have := c.isLt
    rw [BitVec.toNat_add]
    simp
    omega
  rw [voltageOf_sub, succ]
  push_cast
  ring

theorem voltageOf_range (c : Code) : -10.24 ≤ voltageOf c ∧ voltageOf c ≤ 10.2396875 := by
  have hlo : (0 : Rat) ≤ c.toNat := Nat.cast_nonneg _
  have hhi : (c.toNat : Rat) ≤ 65535 := by exact_mod_cast Nat.le_of_lt_succ c.isLt
  rw [voltageOf_eq]
  constructor <;> linarith

/-- Settles O3: the five laws. -/
theorem voltageIsIncreasingAndSymmetric : Obligations.VoltageIsIncreasingAndSymmetric :=
  ⟨fun _ => voltageOf_codeOf, fun _ _ => voltageOf_lt, fun _ _ => voltageOf_symmetric, fun _ => voltageOf_succ_sub,
    voltageOf_range⟩

/-! ### The mirrored byte -/

theorem exec_mirror (f : Flags4) (s : State) :
    exec (.mirror f) s = .next { s with result := .returned (.byte (mirrorOf f)) } := rfl

theorem mirrorOf_bits (f : Flags4) :
    ∀ i, i < 4 → (mirrorOf f).getLsbD i = f.getLsbD i ∧ (mirrorOf f).getLsbD (7 - i) = f.getLsbD i := by
  revert f; decide

/-- The low nibble of a mirrored byte is the flags themselves, so a second mirroring finds the same flags. -/
theorem mirrorOf_low_nibble (f : Flags4) : (mirrorOf f).extractLsb' 0 4 = f := by
  revert f; decide

theorem append_bits (n : Flags4) :
    BitVec.ofBool (n.getLsbD 3) ++ BitVec.ofBool (n.getLsbD 2) ++ BitVec.ofBool (n.getLsbD 1) ++
      BitVec.ofBool (n.getLsbD 0) = n := by
  revert n; decide

/-- The four decoded flags, put together again, are the low nibble. -/
theorem serialEncode_serialDecode (v : Byte) : serialEncode (serialDecode v) = mirrorByte v := by
  have bit : ∀ i, i < 4 → v.getLsbD i = (v.extractLsb' 0 4).getLsbD i := fun i hi => by simp [hi]
  simp only [serialEncode, serialDecode, bit 0 (by decide), bit 1 (by decide), bit 2 (by decide), bit 3 (by decide)]
  exact congrArg mirrorOf (append_bits _)

theorem serialDecode_serialEncode (f : SerialFields) : serialDecode (serialEncode f) = f := by
  obtain ⟨sdo, lsb, reset, long⟩ := f
  revert sdo lsb reset long
  decide

/-- Settles O4: the bits of the byte returned. -/
theorem mirrorCopiesFlagsReversed : Obligations.MirrorCopiesFlagsReversed :=
  ⟨fun f s => ⟨mirrorOf f, exec_mirror f s, mirrorOf_bits f⟩, fun _ => rfl⟩

/-- Settles O5: the bits of a mirrored byte pair off, and its low nibble holds the fields. -/
theorem serialConfigBytesRoundTrip : Obligations.SerialConfigBytesRoundTrip := by
  refine ⟨fun f i hi => ?_, fun f => congrArg mirrorOf (mirrorOf_low_nibble f), fun f => ?_, fun v hwf => ?_, fun f =>
    ⟨serialWf_mirrorOf _, serialDecode_serialEncode f⟩⟩
  · obtain low | high := Nat.lt_or_ge i 4
    · rw [(mirrorOf_bits f i low).1, (mirrorOf_bits f i low).2]
    · have mirrored := mirrorOf_bits f (7 - i) (by omega)
      rw [show 7 - (7 - i) = i by omega] at mirrored
      rw [mirrored.1, mirrored.2]
  · revert f; decide
  · rw [serialEncode_serialDecode]
    exact (of_decide_eq_true hwf).symm

/-! ### Rounding -/

theorem roundQ_of_nonneg {q : Rat} (h : 0 ≤ q) : roundQ q = ⌊q + 1 / 2⌋ := if_pos h

/-- Below zero the rounding is that of the opposite value, so a tie goes away from zero on both sides. -/
theorem roundQ_of_neg {q : Rat} (h : q < 0) : roundQ q = -roundQ (-q) := by
  rw [roundQ_of_nonneg (q := -q) (by linarith)]
  exact if_neg (not_le.2 h)

theorem roundQ_near_of_nonneg {q : Rat} (h : 0 ≤ q) :
    -(1 / 2) ≤ (roundQ q : Rat) - q ∧ (roundQ q : Rat) - q ≤ 1 / 2 := by
  rw [roundQ_of_nonneg h]
  have below := Int.floor_le (q + 1 / 2)
  have above := Int.lt_floor_add_one (q + 1 / 2)
  constructor <;> linarith

theorem roundQ_near (q : Rat) : -(1 / 2) ≤ (roundQ q : Rat) - q ∧ (roundQ q : Rat) - q ≤ 1 / 2 := by
  obtain h | h := le_or_gt 0 q
  · exact roundQ_near_of_nonneg h
  · have opposite := roundQ_near_of_nonneg (q := -q) (by linarith)
    rw [roundQ_of_neg h]
    push_cast
    constructor <;> linarith [opposite.1, opposite.2]

theorem roundQ_nonneg {q : Rat} (h : 0 ≤ q) : 0 ≤ roundQ q := by
  rw [roundQ_of_nonneg h]
  exact Int.floor_nonneg.2 (by linarith)

theorem roundQ_mono_of_nonneg {p q : Rat} (hp : 0 ≤ p) (h : p ≤ q) : roundQ p ≤ roundQ q := by
  rw [roundQ_of_nonneg hp, roundQ_of_nonneg (hp.trans h)]
  exact Int.floor_mono (by linarith)

/-- The two signs do not mix: a negative value never rounds above zero, another one never below. -/
theorem roundQ_mono {p q : Rat} (h : p ≤ q) : roundQ p ≤ roundQ q := by
  obtain hp | hp := le_or_gt 0 p
  · exact roundQ_mono_of_nonneg hp h
  · rw [roundQ_of_neg hp]
    obtain hq | hq := le_or_gt 0 q
    · have := roundQ_nonneg (q := -p) (by linarith)
      have := roundQ_nonneg hq
      omega
    · rw [roundQ_of_neg hq]
      exact neg_le_neg (roundQ_mono_of_nonneg (by linarith) (by linarith))

theorem roundQ_tie (n : Nat) : roundQ ((n : Rat) + 1 / 2) = n + 1 := by
  rw [roundQ_of_nonneg (by positivity), show (n : Rat) + 1 / 2 + 1 / 2 = ((n + 1 : Int) : Rat) by push_cast; ring,
    Int.floor_intCast]

theorem roundQ_natCast (n : Nat) : roundQ (n : Rat) = n := by
  rw [roundQ_of_nonneg (Nat.cast_nonneg n), Int.floor_natCast_add, show ⌊(1 / 2 : Rat)⌋ = 0 by norm_num, add_zero]

/-- Settles O47: nearest, ties, monotone. -/
theorem roundIsNearestWithTiesAwayFromZero : Obligations.RoundIsNearestWithTiesAwayFromZero := by
  refine ⟨roundQ_near, fun n => ⟨roundQ_tie n, ?_⟩, fun p q => roundQ_mono⟩
  have negative : -(n : Rat) - 1 / 2 < 0 := by
    have : (0 : Rat) ≤ n := Nat.cast_nonneg n
    linarith
  rw [roundQ_of_neg negative, show -(-(n : Rat) - 1 / 2) = n + 1 / 2 by ring, roundQ_tie]
  ring

/-! ### The inverse conversions -/

/-- A word's own value rounds to itself and fits, so storing it gives the word. -/
theorem storedWord_roundQ_toNat {w : StoreWidth} (b : BitVec w.bits) :
    (storeWord w (roundQ (b.toNat : Rat))).map (BitVec.ofNat w.bits) = some b := by
  have fits : ((b.toNat : Nat) : Int) < 2 ^ w.bits := by exact_mod_cast b.isLt
  rw [roundQ_natCast, storeWord_of_fits (Int.natCast_nonneg _) fits, Option.map_some, Int.toNat_natCast,
    BitVec.ofNat_toNat, BitVec.setWidth_eq]

theorem ftwOf_ftwInverse (w : BitVec 48) {clk : Rat} (h : clk ≠ 0) :
    ftwOf ((w.toNat : Rat) * 2 ^ 48 / clk) clk = some w := by
  have undone : (w.toNat : Rat) * 2 ^ 48 / clk * clk / 2 ^ 48 = w.toNat := by
    rw [div_mul_cancel₀ _ h, mul_div_cancel_right₀ _ (by norm_num)]
  rw [ftwOf, undone]
  exact storedWord_roundQ_toNat (w := .w48) w

theorem powOf_powInverse (w : BitVec 14) : powOf ((w.toNat : Rat) * 2 ^ 14) = some w := by
  rw [powOf, mul_div_cancel_right₀ _ (by norm_num)]
  exact storedWord_roundQ_toNat (w := .w14) w

theorem fscOf_fscInverse (w : BitVec 10) {r : Rat} (h : r ≠ 0) :
    fscOf (((w.toNat : Rat) - 384) * (9 / 40) / r) r = some w := by
  have undone : ((w.toNat : Rat) - 384) * (9 / 40) / r * r * (40 / 9) + 384 = w.toNat := by
    rw [div_mul_cancel₀ _ h]; ring
  rw [fscOf_eq, undone]
  exact storedWord_roundQ_toNat (w := .w10) w

theorem ndivInverse_sysclkOf {refclk : Rat} (h : refclk ≠ 0) (dbl : Bool) (ndiv : Nat) :
    ndivInverse (sysclkOf refclk dbl ndiv) refclk dbl = ndiv := by
  have divisor_ne : refclk * (if dbl then 2 else 1) * 2 ≠ 0 := by
    have : (if dbl then 2 else 1 : Rat) ≠ 0 := by cases dbl <;> norm_num
    positivity
  rw [ndivInverse, sysclkOf, mul_div_cancel_left₀ _ divisor_ne]
  ring

theorem exec_ftwToFrequency (w : BitVec 48) (clk : Rat) (s : State) :
    exec (.ftwToFrequency w clk) s =
      returnIf .zeroDivisor (if clk = 0 then none else some (.rational (ftwInverse w clk))) s := rfl

theorem exec_fscToFs (w : BitVec 10) (r : Rat) (s : State) :
    exec (.fscToFs w r) s = returnIf .zeroDivisor (if r = 0 then none else some (.rational (fscInverse w r))) s := rfl

theorem exec_sysclkToNdiv (clk refclk : Rat) (dbl : Bool) (s : State) :
    exec (.sysclkToNdiv clk refclk dbl) s =
      returnIf .zeroDivisor (if refclk = 0 then none else some (.rational (ndivInverse clk refclk dbl))) s := rfl

/-- An inverse with a divisor returns its quotient, and none with the divisor 0. -/
theorem returnIf_divisor_of_ne {x : Rat} (h : x ≠ 0) (v : Value) (s : State) :
    returnIf .zeroDivisor (if x = 0 then none else some v) s = .next { s with result := .returned v } := by
  rw [if_neg h]; rfl

theorem returnIf_divisor_zero (v : Value) (s : State) :
    returnIf .zeroDivisor (if (0 : Rat) = 0 then none else some v) s = .refused .zeroDivisor := by
  rw [if_pos rfl]; rfl

/-- Settles O51: each inverse, and the forward conversion of it. -/
theorem inverseConversionsUndoTheForwardOnes : Obligations.InverseConversionsUndoTheForwardOnes := by
  refine ⟨fun w clk s h => ⟨?_, ftwOf_ftwInverse w h⟩, fun w _ => ⟨rfl, powOf_powInverse w⟩,
    fun w r s h => ⟨?_, fscOf_fscInverse w h⟩, fun clk refclk dbl s h => ?_,
    fun _ dbl ndiv h => ndivInverse_sysclkOf h dbl ndiv, fun w c clk dbl s => ⟨?_, ?_, ?_⟩⟩
  · rw [exec_ftwToFrequency, returnIf_divisor_of_ne h, ftwInverse]
  · rw [exec_fscToFs, returnIf_divisor_of_ne h, fscInverse]
  · rw [exec_sysclkToNdiv, returnIf_divisor_of_ne h, ndivInverse]
  · rw [exec_ftwToFrequency, returnIf_divisor_zero]
  · rw [exec_fscToFs, returnIf_divisor_zero]
  · rw [exec_sysclkToNdiv, returnIf_divisor_zero]

end Sys2Proof
end

section
/-! The turns of the caller and of the timer (00_scope R11, 10_state R40): what a turn runs, and the events of one
period of the timer as the counter values it passes, in order. -/

namespace Sys2Proof
open Sys2Proof.Machine

/-! ### The caller's turn -/

theorem step_of_sw {s : State} {turns : List Turn} (h : s.sched = .sw :: turns) :
    step s = swTurn { s with sched := turns } := by
  simp only [step, h, State.popTurn, List.tail_cons]

/-- Settles O55: one clause per place the caller can be in. -/
theorem stepRunsTheDecodedInstruction : Obligations.StepRunsTheDecodedInstruction := by
  refine ⟨fun s r i calls turns hsched hhold hop hcalls hr => ?_, fun s o turns hsched hhold hop => ?_,
    fun s ch turns hsched hhold => ?_⟩
  · have turn := swTurn_of_call (s := { s with sched := turns }) hhold hop hcalls hr
    rw [step_of_sw hsched, turn]
    simp only [State.popCall, hcalls, List.tail_cons]
  · rw [step_of_sw hsched]; exact swTurn_of_op hhold hop
  · rw [step_of_sw hsched]; exact swTurn_of_hold hhold

/-! ### The timer's turn -/

theorem step_of_tick {s : State} {turns : List Turn} (h : s.sched = .tick :: turns) :
    step s = timerTurn { s with sched := turns } := by
  simp only [step, h, State.popTurn, List.tail_cons]

theorem timerTurn_of_event {s : State} {ch : Chan} (h : eventAt s.cfg (nextCount s.cfg s.tmrCnt) = some ch) :
    timerTurn s = exec (.sampleEvent ch) { s with tmrCnt := nextCount s.cfg s.tmrCnt } := by
  simp only [timerTurn, State.advanceTimer, h]

theorem timerTurn_of_no_event {s : State} (h : eventAt s.cfg (nextCount s.cfg s.tmrCnt) = none) :
    timerTurn s = .next { s with tmrCnt := nextCount s.cfg s.tmrCnt } := by
  simp only [timerTurn, State.advanceTimer, h]

/-- Settles O56: by the channel whose offset the new counter value is. -/
theorem tickRunsTheDueSampleEvent : Obligations.TickRunsTheDueSampleEvent := by
  rintro s turns _ hsched rfl hne
  rw [step_of_tick hsched]
  exact ⟨fun h => timerTurn_of_event ((eventAt_eq_ch0_iff _ _).2 h),
    fun h => timerTurn_of_event ((eventAt_eq_ch1_iff _ _ hne).2 h),
    fun h0 h1 => timerTurn_of_no_event ((eventAt_eq_none_iff _ _).2 ⟨h0, h1⟩)⟩

/-! ### The events of a period -/

/-- Up to the wrap the counter passes consecutive values. -/
theorem eventsIn_eq_filterMap (cfg : Params) (n cnt : Nat) (h : cnt + n < cfg.timerPeriod) :
    eventsIn cfg n cnt = (List.range' (cnt + 1) n).filterMap (eventAt cfg) := by
  induction n generalizing cnt with
  | zero => rfl
  | succ n ih =>
    have step_up : nextCount cfg cnt = cnt + 1 := if_pos (by omega)
    rw [eventsIn, step_up, ih (cnt + 1) (by omega), List.range'_succ, List.filterMap_cons]
    cases eventAt cfg (cnt + 1) <;> rfl

/-- A whole period from the wrap passes the values from 0 up. -/
theorem eventsIn_period (cfg : Params) (h : 0 < cfg.timerPeriod) :
    eventsIn cfg cfg.timerPeriod (cfg.timerPeriod - 1) = (List.range' 0 cfg.timerPeriod).filterMap (eventAt cfg) := by
  obtain ⟨n, hn⟩ : ∃ n, cfg.timerPeriod = n + 1 := ⟨cfg.timerPeriod - 1, by omega⟩
  have wrap : nextCount cfg n = 0 := if_neg (by omega)
  rw [hn, Nat.add_sub_cancel, eventsIn, wrap, eventsIn_eq_filterMap cfg n 0 (by omega), List.range'_succ,
    List.filterMap_cons]
  cases eventAt cfg 0 <;> rfl

theorem filterMap_range'_eq_nil {f : Nat → Option Chan} {lo n : Nat} (h : ∀ k, lo ≤ k → k < lo + n → f k = none) :
    (List.range' lo n).filterMap f = [] := by
  refine List.filterMap_eq_nil_iff.2 fun k hk => ?_
  obtain ⟨hlo, hhi⟩ := List.mem_range'_1.1 hk
  exact h k hlo hhi

/-- Consecutive values, cut at the value `lo + i`. -/
theorem range'_cut (lo i j : Nat) :
    List.range' lo (i + (j + 1)) = List.range' lo i ++ (lo + i) :: List.range' (lo + i + 1) j := by
  rw [← List.range'_append_1, List.range'_succ]

/-- Where two values alone have an event, a range that holds both has the two events, in order. -/
theorem filterMap_range'_two {f : Nat → Option Chan} {a b n : Nat} {x y : Chan} (hab : a < b) (hb : b < n)
    (ha : f a = some x) (hfb : f b = some y) (hother : ∀ k, k ≠ a → k ≠ b → f k = none) :
    (List.range' 0 n).filterMap f = [x, y] := by
  obtain ⟨i, rfl⟩ : ∃ i, b = a + 1 + i := ⟨b - (a + 1), by omega⟩
  obtain ⟨j, rfl⟩ : ∃ j, n = a + (i + (j + 1) + 1) := ⟨n - (a + (i + 1 + 1)), by omega⟩
  rw [range'_cut, range'_cut, Nat.zero_add, List.filterMap_append, List.filterMap_cons_some ha, List.filterMap_append,
    List.filterMap_cons_some hfb,
    filterMap_range'_eq_nil fun k _ hk => hother k (by omega) (by omega),
    filterMap_range'_eq_nil fun k hlo hk => hother k (by omega) (by omega),
    filterMap_range'_eq_nil fun k hlo _ => hother k (by omega) (by omega)]
  rfl

/-- Settles O57: the two offsets are distinct values below the period, and no other value has an event. -/
theorem eachPeriodHasOneEventPerChannel : Obligations.EachPeriodHasOneEventPerChannel := by
  rintro cfg ⟨-, hne, h0, h1, -⟩
  have first := (eventAt_eq_ch0_iff cfg cfg.tickOffset0).2 rfl
  have second := (eventAt_eq_ch1_iff cfg cfg.tickOffset1 hne).2 rfl
  rw [eventsIn_period cfg (by omega)]
  split
  case isTrue hlt =>
    exact filterMap_range'_two hlt h1 first second fun k ha hb => (eventAt_eq_none_iff cfg k).2 ⟨ha, hb⟩
  case isFalse hge =>
    exact filterMap_range'_two (by omega) h0 second first fun k ha hb => (eventAt_eq_none_iff cfg k).2 ⟨hb, ha⟩

end Sys2Proof
end
